-- ==== Sys2Proof/Word.lean ====
section
/-! DEFINITION. Word.lean: the widths of the framer's words (`00_scope.md` R7, R9; `10_state.md` R10).
All quantities are unsigned; arithmetic on a register wraps at the register's width (R9). -/

namespace Sys2Proof

/-- A byte: 8 bits, unsigned (R9). -/
abbrev Byte := BitVec 8

/-- A channel value or checksum: 16 bits, unsigned (R7 CH_W, R16). -/
abbrev Half := BitVec 16

/-- A time sample, threshold or baud rate: 32 bits, unsigned (R7 TIME_W, R24). -/
abbrev Word := BitVec 32

end Sys2Proof
end

