-- ==== Sys2Proof/Config.lean ====
section
/-! DEFINITION. Config.lean: the implementation parameters of `00_scope.md` R7.
The one OPEN parameter, the FIFO depth N (D2), is not fixed here for the machine: a state carries its own MEM and
N is MEM's length, so every statement over all states holds for every N. `fifoDepth` is only the depth of the
instance `State.reset` builds, the spec's default (DESIGN CHOICE, log 1). -/

namespace Sys2Proof.Config

/-- N of the instance `State.reset` describes: "default 4" (R7; DESIGN CHOICE, log 1). -/
def fifoDepth : Nat := 4

/-- NUM_CH, channels in an RCMessage (R7; D1). -/
abbrev numCh : Nat := 16

/-- SBUS_PAYLOAD, packed payload bytes of an SBUS frame (R7). -/
abbrev sbusPayload : Nat := 22

/-- IBUS_NCH, channels an IBus frame carries (R7). -/
def ibusNch : Nat := 14

/-- IBUS_HDR0, the first IBus header byte (R7, R60). -/
def ibusHdr0 : Byte := 0x20

/-- IBUS_HDR1, the second IBus header byte (R7, R60). -/
def ibusHdr1 : Byte := 0x40

/-- IBUS_CK_INIT, the running checksum's initial value (R7, R62). -/
def ibusCkInit : Half := 0xFFFF

/-- SBUS_HDR, the SBUS header byte (R7, R63). -/
def sbusHdr : Byte := 0x0F

/-- SBUS_FOOTER, the SBUS footer byte (R7, R63). -/
def sbusFooter : Byte := 0x00

/-- DEFAULT_BAUD (R7). -/
def defaultBaud : Word := 115200

/-- DEFAULT_TIMEOUT_MS (R7). -/
def defaultTimeoutMs : Word := 1000

/-- DEFAULT_IDLE_US: the idle heuristic is disabled (R7). -/
def defaultIdleUs : Word := 0

/-- FREE VALUE: what RB.COUNT answers for a COUNT that 32 bits do not hold. R94 says `zext_32(COUNT)`, which is stated
for a COUNT of at most 32 bits only; N has no upper bound (DESIGN CHOICE, log 18). -/
opaque wideCount : Nat → Word

end Sys2Proof.Config
end

