-- ==== Sys2Proof/Syntax.lean ====
section
/-! DEFINITION. Syntax.lean: the messages, selectors, tags and operands of the framer, and `Instr`, one constructor
per row of spec/opcode_table.json: the 18 operations of `30_encoding.md` R72 and the 13 transition classes of R67
and R68. -/

namespace Sys2Proof

/-- The protocol selector tag, the four codes of `30_encoding.md` R70. -/
inductive Proto where
  /-- code 0, NONE: no protocol chosen; unsupported -/
  | none
  /-- code 1, IBUS: 32-byte frames -/
  | ibus
  /-- code 2, SBUS: 25-byte frames -/
  | sbus
  /-- code 3, RSVD: any other selector; unsupported -/
  | rsvd
  deriving DecidableEq, Repr

/-- BEGIN accepts this selector (R70, column "supported"). -/
def Proto.supported : Proto → Bool
  | .none => false
  | .ibus => true
  | .sbus => true
  | .rsvd => false

/-- The state tag ST, by the codes 0 to 4 of `30_encoding.md` R71, which the two protocols share.
Codes 5 to 7 are never written by any rule (R71; U11) and have no constructor. -/
inductive Tag where
  /-- code 0: WaitingForHeader0 (IBus), WaitingForHeader (SBUS): the initial state -/
  | code0
  /-- code 1: HasHeader0 (IBus), AccumulateChannels (SBUS) -/
  | code1
  /-- code 2: HasHeader1 (IBus), ReadFlags (SBUS) -/
  | code2
  /-- code 3: HasFrame (IBus), ValidateFooter (SBUS) -/
  | code3
  /-- code 4: HasCheckSum0 (IBus); unused by SBUS -/
  | code4
  deriving DecidableEq, Repr

namespace Tag

/-- The initial state of either protocol (R71: code 0). -/
abbrev initial : Tag := .code0
/-- IBus states in order (R125, R71). -/
abbrev waitingForHeader0 : Tag := .code0
@[inherit_doc waitingForHeader0] abbrev hasHeader0 : Tag := .code1
@[inherit_doc waitingForHeader0] abbrev hasHeader1 : Tag := .code2
@[inherit_doc waitingForHeader0] abbrev hasFrame : Tag := .code3
@[inherit_doc waitingForHeader0] abbrev hasCheckSum0 : Tag := .code4
/-- SBUS states in order (R145, R71). -/
abbrev waitingForHeader : Tag := .code0
@[inherit_doc waitingForHeader] abbrev accumulateChannels : Tag := .code1
@[inherit_doc waitingForHeader] abbrev readFlags : Tag := .code2
@[inherit_doc waitingForHeader] abbrev validateFooter : Tag := .code3

end Tag

/-- An RCMessage (`10_state.md` R10): sixteen 16-bit channels and an 8-bit error-flag mask. -/
structure RCMessage where
  channels   : Vector Half Config.numCh
  errorFlags : Byte
  deriving DecidableEq, Repr

/-- MSG_ZERO (R10). -/
def RCMessage.zero : RCMessage :=
  { channels := #v[0, 0, 0, 0, 0, 0, 0, 0, 0, 0, 0, 0, 0, 0, 0, 0], errorFlags := 0 }

/-- The Config operand of BEGIN (`30_encoding.md` R78). The field defaults are the rule's "no implicit defaults
beyond baud=115200, timeout=1000ms, idle_threshold=0/disabled"; the other two must be given. -/
structure SerialConfig where
  srcPresent      : Bool
  protocol        : Proto
  baudrate        : Word := Config.defaultBaud
  timeoutMs       : Word := Config.defaultTimeoutMs
  idleThresholdUs : Word := Config.defaultIdleUs
  deriving DecidableEq, Repr

/-- The thirteen per-byte transition classes (R67, R68), without their byte. -/
inductive TransClass where
  | ibusWh0Hdr | ibusWh0Skip | ibusH0Hdr1 | ibusH0Resync | ibusH1Data | ibusHfCklo | ibusCs0Ckhi
  | sbusWhHdr | sbusWhSkip | sbusAccData | sbusRfFlags | sbusVfOk | sbusVfBad
  deriving DecidableEq, Repr

/-- The instructions: the operations of R72, then the transition classes of R67 and R68. A class whose match fixes
the whole byte carries no operand; the others carry the received byte `b`. -/
inductive Instr where
  /-- BEGIN, R171 -/
  | begin (cfg : SerialConfig)
  /-- UPDATE, R173 -/
  | update
  /-- RXBYTE, R172 -/
  | rxbyte (b : Byte)
  /-- AVAILABLE, R174 -/
  | available
  /-- GETMESSAGE, R175 -/
  | getmessage
  /-- TIMEOUT, R176 -/
  | timeout (thresholdMs : Word)
  /-- TSLM, R177 -/
  | tslm
  /-- PARSEBYTE, R110 -/
  | parsebyte (b : Byte)
  /-- RESETPARSER, R111 -/
  | resetparser
  /-- LISTENER, R112 -/
  | listener
  /-- GETMSGFIFO, R113 -/
  | getmsgfifo
  /-- PARSERNOTIFY, R114 -/
  | parsernotify
  /-- RB.PUT, R90 -/
  | rbPut (item : RCMessage)
  /-- RB.GET, R91 -/
  | rbGet
  /-- RB.ISEMPTY, R92 -/
  | rbIsempty
  /-- RB.ISFULL, R93 -/
  | rbIsfull
  /-- RB.COUNT, R94 -/
  | rbCount
  /-- RB.CLEAR, R95 -/
  | rbClear
  /-- IBUS.WH0.HDR, R126 (the byte is 0x20) -/
  | ibusWh0Hdr
  /-- IBUS.WH0.SKIP, R127 -/
  | ibusWh0Skip (b : Byte)
  /-- IBUS.H0.HDR1, R128 (the byte is 0x40) -/
  | ibusH0Hdr1
  /-- IBUS.H0.RESYNC, R129 -/
  | ibusH0Resync (b : Byte)
  /-- IBUS.H1.DATA, R130 -/
  | ibusH1Data (b : Byte)
  /-- IBUS.HF.CKLO, R131 -/
  | ibusHfCklo (b : Byte)
  /-- IBUS.CS0.CKHI, R132 -/
  | ibusCs0Ckhi (b : Byte)
  /-- SBUS.WH.HDR, R146 (the byte is 0x0F) -/
  | sbusWhHdr
  /-- SBUS.WH.SKIP, R147 -/
  | sbusWhSkip (b : Byte)
  /-- SBUS.ACC.DATA, R148 -/
  | sbusAccData (b : Byte)
  /-- SBUS.RF.FLAGS, R149 -/
  | sbusRfFlags (b : Byte)
  /-- SBUS.VF.OK, R150 (the byte is 0x00) -/
  | sbusVfOk
  /-- SBUS.VF.BAD, R151 -/
  | sbusVfBad (b : Byte)
  deriving DecidableEq, Repr

end Sys2Proof
end

