-- ==== Sys2Proof/WellFormed.lean ====
section
/-! DEFINITION. WellFormed.lean: which terms of `Instr` are instructions. An operation takes any operand
(`44_serialrx.md` R171 (c): "no field of the Config is range-checked"); a catch-all transition class excludes the
bytes that an earlier class of its state takes (`30_encoding.md` R67, R68: "any other byte"). -/

namespace Sys2Proof

/-- `i` is an instruction of R72, R67 or R68. -/
def Instr.wellFormed : Instr → Bool
  | .ibusWh0Skip b  => b != Config.ibusHdr0
  | .ibusH0Resync b => b != Config.ibusHdr1
  | .sbusWhSkip b   => b != Config.sbusHdr
  | .sbusVfBad b    => b != Config.sbusFooter
  | .begin _        => true
  | .update         => true
  | .rxbyte _       => true
  | .available      => true
  | .getmessage     => true
  | .timeout _      => true
  | .tslm           => true
  | .parsebyte _    => true
  | .resetparser    => true
  | .listener       => true
  | .getmsgfifo     => true
  | .parsernotify   => true
  | .rbPut _        => true
  | .rbGet          => true
  | .rbIsempty      => true
  | .rbIsfull       => true
  | .rbCount        => true
  | .rbClear        => true
  | .ibusWh0Hdr     => true
  | .ibusH0Hdr1     => true
  | .ibusH1Data _   => true
  | .ibusHfCklo _   => true
  | .ibusCs0Ckhi _  => true
  | .sbusWhHdr      => true
  | .sbusAccData _  => true
  | .sbusRfFlags _  => true
  | .sbusVfOk       => true

end Sys2Proof
end

