-- ==== Sys2Proof/Decode.lean ====
section
/-! DEFINITION. Decode.lean: command words (`30_encoding.md` R72, R73, R74, R78), the strobe of
the byte input (R172), the transition decode of a byte handed to the parser (R67, R68, R71), the decoder over all three,
total and rejecting by name, and the encoder. -/

namespace Sys2Proof

/-! ### What stands on a port -/

/-- One word on an input port (log 8). -/
inductive PortWord where
  /-- a command word of its own width, R73 -/
  | command (width : Nat) (bits : BitVec width)
  /-- one strobe of the byte input: RXBYTE ("on pins, one strobe of the byte input", R172) -/
  | strobe (b : Byte)
  /-- a byte handed to the parser itself, behind RXBYTE, which R67 and R68 decode against the state tag -/
  | parserByte (b : Byte)
  deriving DecidableEq, Repr

/-- The registers the transition decode reads: ACTIVE, PROTO_SEL and ST (R110). -/
structure ParseCtx where
  active   : Bool
  protoSel : Proto
  st       : Tag
  deriving DecidableEq, Repr

/-- Why the decoder gives no instruction. -/
inductive Reject where
  /-- fewer than the five bits of an operation code (R73) -/
  | shortWord (width : Nat)
  /-- a reserved operation code (R72, R75) -/
  | reservedCode (op : BitVec 5)
  /-- the width is not the one R73 gives the operation's format -/
  | wrongWidth (op : BitVec 5) (width : Nat)
  /-- a byte handed to the parser while ACTIVE = 0: no transition table applies (R118) -/
  | noParser (b : Byte)
  deriving DecidableEq, Repr

/-! ### Field layouts -/

/-- The 2-bit code of a selector (R70). -/
def Proto.code : Proto → BitVec 2
  | .none => 0
  | .ibus => 1
  | .sbus => 2
  | .rsvd => 3

/-- The selector of a 2-bit code (R70). -/
def Proto.ofCode (c : BitVec 2) : Proto :=
  if c = 0 then .none else if c = 1 then .ibus else if c = 2 then .sbus else .rsvd

/-- The 3-bit code of a tag (R71). -/
def Tag.code : Tag → BitVec 3
  | .code0 => 0
  | .code1 => 1
  | .code2 => 2
  | .code3 => 3
  | .code4 => 4

/-- R74: channel k at bits 16k+15 : 16k, error_flags at bits 263:256. -/
def RCMessage.ofBits (w : BitVec 264) : RCMessage :=
  { channels := #v[w.extractLsb' 0 16, w.extractLsb' 16 16, w.extractLsb' 32 16, w.extractLsb' 48 16,
      w.extractLsb' 64 16, w.extractLsb' 80 16, w.extractLsb' 96 16, w.extractLsb' 112 16,
      w.extractLsb' 128 16, w.extractLsb' 144 16, w.extractLsb' 160 16, w.extractLsb' 176 16,
      w.extractLsb' 192 16, w.extractLsb' 208 16, w.extractLsb' 224 16, w.extractLsb' 240 16]
    errorFlags := w.extractLsb' 256 8 }

/-- R74, the other direction. -/
def RCMessage.toBits (m : RCMessage) : BitVec 264 :=
  m.errorFlags ++ (m.channels[15] ++ (m.channels[14] ++ (m.channels[13] ++ (m.channels[12] ++
    (m.channels[11] ++ (m.channels[10] ++ (m.channels[9] ++ (m.channels[8] ++ (m.channels[7] ++
    (m.channels[6] ++ (m.channels[5] ++ (m.channels[4] ++ (m.channels[3] ++ (m.channels[2] ++
    (m.channels[1] ++ m.channels[0])))))))))))))))

/-- The operand of format CC (R73): src_present at 98, protocol at 97:96, baudrate at 95:64, timeout_ms at 63:32,
idle_threshold_us at 31:0. -/
def SerialConfig.ofBits (w : BitVec 99) : SerialConfig :=
  { srcPresent      := w.getLsbD 98
    protocol        := Proto.ofCode (w.extractLsb' 96 2)
    baudrate        := w.extractLsb' 64 32
    timeoutMs       := w.extractLsb' 32 32
    idleThresholdUs := w.extractLsb' 0 32 }

/-- R73, the other direction. -/
def SerialConfig.toBits (c : SerialConfig) : BitVec 99 :=
  BitVec.ofBool c.srcPresent ++ (c.protocol.code ++ (c.baudrate ++ (c.timeoutMs ++ c.idleThresholdUs)))

/-! ### Command words -/

/-- The operand formats of R73. -/
inductive Format where
  | c0 | cb | ct | cc | cm
  deriving DecidableEq, Repr

/-- Column "total bits" of R73. -/
def Format.width : Format → Nat
  | .c0 => 5
  | .cb => 13
  | .ct => 37
  | .cc => 104
  | .cm => 269

/-- The operation table of R72: for the code `op`, its format and the instruction with the operand taken from the
low bits of the word, as R73 lays it out. No row: the code is reserved. -/
def commandRow (op : Nat) {width : Nat} (bits : BitVec width) : Option (Format × Instr) :=
  match op with
  | 0x01 => some (.cc, .begin (SerialConfig.ofBits (bits.extractLsb' 0 99)))
  | 0x02 => some (.c0, .update)
  | 0x03 => some (.cb, .rxbyte (bits.extractLsb' 0 8))
  | 0x04 => some (.c0, .available)
  | 0x05 => some (.c0, .getmessage)
  | 0x06 => some (.ct, .timeout (bits.extractLsb' 0 32))
  | 0x07 => some (.c0, .tslm)
  | 0x10 => some (.cb, .parsebyte (bits.extractLsb' 0 8))
  | 0x11 => some (.c0, .resetparser)
  | 0x12 => some (.c0, .listener)
  | 0x13 => some (.c0, .getmsgfifo)
  | 0x14 => some (.c0, .parsernotify)
  | 0x18 => some (.cm, .rbPut (RCMessage.ofBits (bits.extractLsb' 0 264)))
  | 0x19 => some (.c0, .rbGet)
  | 0x1A => some (.c0, .rbIsempty)
  | 0x1B => some (.c0, .rbIsfull)
  | 0x1C => some (.c0, .rbCount)
  | 0x1D => some (.c0, .rbClear)
  | _    => none

/-- A command word: the code is its top five bits (R73); a known code needs exactly its format's width. -/
def decodeCommand (width : Nat) (bits : BitVec width) : Except Reject Instr :=
  if width < 5 then .error (.shortWord width)
  else
    let op := bits.extractLsb' (width - 5) 5
    match commandRow op.toNat bits with
    | none => .error (.reservedCode op)
    | some (f, i) => if width = f.width then .ok i else .error (.wrongWidth op width)

/-! ### Received bytes -/

/-- The protocol whose table applies: R110 takes IBus when PROTO_SEL = IBUS and SBUS otherwise. (PROTO_SEL is IBUS or
SBUS whenever ACTIVE = 1, R20; the `else` of R110 decides the rest, log 10.) -/
def Proto.dialect (p : Proto) : Proto :=
  if p = .ibus then .ibus else .sbus

/-- The tag the table is entered with: SBUS never holds code 4 (R71); "treat as the initial state" (U11, log 11). -/
def ParseCtx.tag (x : ParseCtx) : Tag :=
  if x.protoSel.dialect = .sbus ∧ x.st = .code4 then .initial else x.st

/-- The IBus transition decode (R67): by the tag, then by the byte, the first class that matches. -/
def decodeIbus (st : Tag) (b : Byte) : TransClass :=
  match st with
  | .code0 => if b = Config.ibusHdr0 then .ibusWh0Hdr else .ibusWh0Skip
  | .code1 => if b = Config.ibusHdr1 then .ibusH0Hdr1 else .ibusH0Resync
  | .code2 => .ibusH1Data
  | .code3 => .ibusHfCklo
  | .code4 => .ibusCs0Ckhi

/-- The SBUS transition decode (R68). -/
def decodeSbus (st : Tag) (b : Byte) : TransClass :=
  match st with
  | .code0 => if b = Config.sbusHdr then .sbusWhHdr else .sbusWhSkip
  | .code1 => .sbusAccData
  | .code2 => .sbusRfFlags
  | .code3 => if b = Config.sbusFooter then .sbusVfOk else .sbusVfBad
  | .code4 => if b = Config.sbusHdr then .sbusWhHdr else .sbusWhSkip

/-- The one transition class of a received byte (R110: "Exactly one transition rule applies"). -/
def ParseCtx.classOf (x : ParseCtx) (b : Byte) : TransClass :=
  if x.protoSel = .ibus then decodeIbus x.st b else decodeSbus x.st b

/-- One row of the tables of R67 and R68: protocol, state, mask, match. -/
structure ClassRow where
  proto : Proto
  st    : Tag
  mask  : Byte
  val   : Byte
  deriving DecidableEq, Repr

/-- The rows of R67 and R68, letter by letter. -/
def TransClass.row : TransClass → ClassRow
  | .ibusWh0Hdr   => ⟨.ibus, .waitingForHeader0,  0xFF, 0x20⟩
  | .ibusWh0Skip  => ⟨.ibus, .waitingForHeader0,  0x00, 0x00⟩
  | .ibusH0Hdr1   => ⟨.ibus, .hasHeader0,         0xFF, 0x40⟩
  | .ibusH0Resync => ⟨.ibus, .hasHeader0,         0x00, 0x00⟩
  | .ibusH1Data   => ⟨.ibus, .hasHeader1,         0x00, 0x00⟩
  | .ibusHfCklo   => ⟨.ibus, .hasFrame,           0x00, 0x00⟩
  | .ibusCs0Ckhi  => ⟨.ibus, .hasCheckSum0,       0x00, 0x00⟩
  | .sbusWhHdr    => ⟨.sbus, .waitingForHeader,   0xFF, 0x0F⟩
  | .sbusWhSkip   => ⟨.sbus, .waitingForHeader,   0x00, 0x00⟩
  | .sbusAccData  => ⟨.sbus, .accumulateChannels, 0x00, 0x00⟩
  | .sbusRfFlags  => ⟨.sbus, .readFlags,          0x00, 0x00⟩
  | .sbusVfOk     => ⟨.sbus, .validateFooter,     0xFF, 0x00⟩
  | .sbusVfBad    => ⟨.sbus, .validateFooter,     0x00, 0x00⟩

/-- The classes in the order R67 and R68 list them. -/
def classTable : List TransClass :=
  [.ibusWh0Hdr, .ibusWh0Skip, .ibusH0Hdr1, .ibusH0Resync, .ibusH1Data, .ibusHfCklo, .ibusCs0Ckhi,
   .sbusWhHdr, .sbusWhSkip, .sbusAccData, .sbusRfFlags, .sbusVfOk, .sbusVfBad]

/-- `(b & mask) == match` in the row's state (`30_encoding.md` section 4). -/
def ClassRow.matches (r : ClassRow) (x : ParseCtx) (b : Byte) : Bool :=
  r.proto = x.protoSel.dialect && r.st = x.tag && (b &&& r.mask) == r.val

/-- The instruction of a class and the byte that selected it. -/
def TransClass.instr (c : TransClass) (b : Byte) : Instr :=
  match c with
  | .ibusWh0Hdr   => .ibusWh0Hdr
  | .ibusWh0Skip  => .ibusWh0Skip b
  | .ibusH0Hdr1   => .ibusH0Hdr1
  | .ibusH0Resync => .ibusH0Resync b
  | .ibusH1Data   => .ibusH1Data b
  | .ibusHfCklo   => .ibusHfCklo b
  | .ibusCs0Ckhi  => .ibusCs0Ckhi b
  | .sbusWhHdr    => .sbusWhHdr
  | .sbusWhSkip   => .sbusWhSkip b
  | .sbusAccData  => .sbusAccData b
  | .sbusRfFlags  => .sbusRfFlags b
  | .sbusVfOk     => .sbusVfOk
  | .sbusVfBad    => .sbusVfBad b

/-- The decoder: a command word by R72 and R73 and a strobe of the byte input by R172, whatever the state; a byte handed
to the parser by R67 and R68. -/
def decode (x : ParseCtx) : PortWord → Except Reject Instr
  | .command width bits => decodeCommand width bits
  | .strobe b => .ok (.rxbyte b)
  | .parserByte b => if x.active then .ok ((x.classOf b).instr b) else .error (.noParser b)

/-! ### The encoder -/

/-- The word of an instruction: the command word of R72 and R73, or the byte of R67 and R68. (RXBYTE has a second
spelling, the strobe of R172.) -/
def encode : Instr → PortWord
  | .begin cfg      => .command 104 (0x01#5 ++ cfg.toBits)
  | .update         => .command 5 0x02#5
  | .rxbyte b       => .command 13 (0x03#5 ++ b)
  | .available      => .command 5 0x04#5
  | .getmessage     => .command 5 0x05#5
  | .timeout t      => .command 37 (0x06#5 ++ t)
  | .tslm           => .command 5 0x07#5
  | .parsebyte b    => .command 13 (0x10#5 ++ b)
  | .resetparser    => .command 5 0x11#5
  | .listener       => .command 5 0x12#5
  | .getmsgfifo     => .command 5 0x13#5
  | .parsernotify   => .command 5 0x14#5
  | .rbPut m        => .command 269 (0x18#5 ++ m.toBits)
  | .rbGet          => .command 5 0x19#5
  | .rbIsempty      => .command 5 0x1A#5
  | .rbIsfull       => .command 5 0x1B#5
  | .rbCount        => .command 5 0x1C#5
  | .rbClear        => .command 5 0x1D#5
  | .ibusWh0Hdr     => .parserByte 0x20
  | .ibusWh0Skip b  => .parserByte b
  | .ibusH0Hdr1     => .parserByte 0x40
  | .ibusH0Resync b => .parserByte b
  | .ibusH1Data b   => .parserByte b
  | .ibusHfCklo b   => .parserByte b
  | .ibusCs0Ckhi b  => .parserByte b
  | .sbusWhHdr      => .parserByte 0x0F
  | .sbusWhSkip b   => .parserByte b
  | .sbusAccData b  => .parserByte b
  | .sbusRfFlags b  => .parserByte b
  | .sbusVfOk       => .parserByte 0x00
  | .sbusVfBad b    => .parserByte b

/-- The transition class of an instruction; none for an operation of R72. -/
def Instr.transClass : Instr → Option TransClass
  | .ibusWh0Hdr     => some .ibusWh0Hdr
  | .ibusWh0Skip _  => some .ibusWh0Skip
  | .ibusH0Hdr1     => some .ibusH0Hdr1
  | .ibusH0Resync _ => some .ibusH0Resync
  | .ibusH1Data _   => some .ibusH1Data
  | .ibusHfCklo _   => some .ibusHfCklo
  | .ibusCs0Ckhi _  => some .ibusCs0Ckhi
  | .sbusWhHdr      => some .sbusWhHdr
  | .sbusWhSkip _   => some .sbusWhSkip
  | .sbusAccData _  => some .sbusAccData
  | .sbusRfFlags _  => some .sbusRfFlags
  | .sbusVfOk       => some .sbusVfOk
  | .sbusVfBad _    => some .sbusVfBad
  | .begin _        => none
  | .update         => none
  | .rxbyte _       => none
  | .available      => none
  | .getmessage     => none
  | .timeout _      => none
  | .tslm           => none
  | .parsebyte _    => none
  | .resetparser    => none
  | .listener       => none
  | .getmsgfifo     => none
  | .parsernotify   => none
  | .rbPut _        => none
  | .rbGet          => none
  | .rbIsempty      => none
  | .rbIsfull       => none
  | .rbCount        => none
  | .rbClear        => none

/-- The registers stand where `i` can be decoded: anywhere for an operation; for a transition class, a parser is
active in the class's protocol and state (R67, R68: column "state ST"). -/
def Instr.admittedIn (i : Instr) (x : ParseCtx) : Bool :=
  match i.transClass with
  | none => true
  | some c => x.active && c.row.proto = x.protoSel.dialect && c.row.st = x.tag

/-! ### The opcode table's own numbering -/

/-- The registers in which a table row of format "byte" whose match is `b` is decoded (log 19): the state of the row
that fixes the whole byte; for any other byte the first catch-all row, IBUS.WH0.SKIP. -/
def tableContext (b : Byte) : ParseCtx :=
  if b = 0x20 then ⟨true, .ibus, .waitingForHeader0⟩
  else if b = 0x40 then ⟨true, .ibus, .hasHeader0⟩
  else if b = 0x0F then ⟨true, .sbus, .waitingForHeader⟩
  else if b = 0x00 then ⟨true, .sbus, .validateFooter⟩
  else ⟨true, .ibus, .waitingForHeader0⟩

/-- The port word of a table word (log 19). In the table an operation row holds its 5-bit code at bits 4:0 and no
operand bit, so a word of at most 8 bits that is an assigned code is that operation with an operand of zeros; any
other word of at most 8 bits is a received byte. A longer word is a command word of R73 padded to whole bytes. -/
def tableWord (nbits w : Nat) : PortWord :=
  if nbits ≤ 8 then
    match commandRow w (0#0) with
    | some (f, _) => .command f.width (BitVec.ofNat f.width (w <<< (f.width - 5)))
    | none => .parserByte (BitVec.ofNat 8 w)
  else
    let width := if nbits = 16 then 13 else if nbits = 40 then 37 else if nbits = 272 then 269 else nbits
    .command width (BitVec.ofNat width w)

/-- The instruction the decoder reads from a word numbered as spec/opcode_table.json numbers it. -/
def decodeTableWord (nbits w : Nat) : Option Instr :=
  match decode (tableContext (BitVec.ofNat 8 w)) (tableWord nbits w) with
  | .ok i => some i
  | .error _ => none

end Sys2Proof
end

