-- ==== Sys2Proof/Machine/State.lean ====
section
/-! DEFINITION. Machine/State.lean: every register of `10_state.md` R33, the message FIFO (R21, R22), and, as the
model's own fields, the inputs and outputs the spec keeps outside the registers (R31, R32): the time bases, the byte
source, the pending requests and the result lines. Plain data throughout. -/

namespace Sys2Proof.Machine

/-- The framer has no fault: "None of them faults; the framer has no fault" (`30_encoding.md` R75), "No exceptions or
panics anywhere in this design" (`60_exceptions.md`, `44_serialrx.md` R180). So this type has no constructor. -/
inductive Fault where
  deriving DecidableEq, Repr

/-- Why the model gives a state or a word no meaning. -/
inductive Refusal where
  /-- Raised by an arm of `exec` for an instruction without a meaning yet; no arm does. Safe. -/
  | notModelled (mnemonic : String)
  /-- Raised by `step` for an instance with N < 1: "A model must refuse ... an instance with NUM_CH < 16 or N < 1"
  (`00_scope.md` R8). Safe (log 2). -/
  | fifoDepthZero
  /-- Raised by `step` at a clock whose two requests both write the FIFO: "true simultaneity of two writes is `refuse`"
  (`93_implementation_defined.md` U17, for R53). Safe (log 25). -/
  | twoFifoWriters
  /-- Raised by `step` for a word that is no command word of R73: shorter than a code, or a known code in a word whose
  width is not its format's. Safe (log 15). -/
  | malformedCommand (why : Reject)
  /-- Raised by the meaning of a transition class in a state, or on a byte, that does not select the class: the rule's
  own "Condition" fails and the spec gives the class no effect there. `step` never gets here. Safe (log 9). -/
  | classNotSelected (c : TransClass)
  deriving DecidableEq, Repr

/-- The events of `60_exceptions.md` R201 and R202. -/
inductive Event where
  /-- Resync.SkippedByte -/
  | skippedByte
  /-- Resync.BadHeader1 -/
  | badHeader1
  /-- Resync.ChecksumMismatch -/
  | checksumMismatch
  /-- Resync.BadFooter -/
  | badFooter
  /-- Resync.IdleGap -/
  | idleGap
  /-- Resync.IdleDiscard -/
  | idleDiscard
  /-- Config.NoByteSource -/
  | noByteSource
  /-- Config.UnsupportedProtocol -/
  | unsupportedProtocol
  deriving DecidableEq, Repr

/-- The message FIFO (R21, R22): `mem` is MEM[0..N-1], so its length is N. -/
structure Fifo where
  mem   : List RCMessage
  wr    : Nat
  rd    : Nat
  count : Nat
  deriving DecidableEq, Repr

/-- The outputs of one step: the results of R72 and R73 (a result an operation lacks is zero), the SrcBegin output to
the byte source (R217), and the events raised in the step in order, which nothing reads (R9, R201; log 13, log 14). -/
structure Outputs where
  ok       : Bool
  val      : Word
  msg      : RCMessage
  srcBegin : Option Word
  events   : List Event
  deriving DecidableEq, Repr

/-- Every result line zero, no output to the byte source, no event. -/
def Outputs.zero : Outputs :=
  { ok := false, val := 0, msg := RCMessage.zero, srcBegin := none, events := [] }

/-- A byte in the byte source's buffer with the time samples of the RXBYTE step that will read it (R173, D24). -/
structure SrcByte where
  byte  : Byte
  nowUs : Word
  nowMs : Word
  deriving DecidableEq, Repr

/-- A word on a port with the time samples of its step (R73: "the time bases are not part of the command word"). -/
structure Request where
  word  : PortWord
  nowUs : Word
  nowMs : Word
  deriving DecidableEq, Repr

/-- What the outside presents at one clock: bytes arriving in the byte source, a request of the caller, a request of
the byte side (R4, R55; log 3, log 16). -/
structure Clock where
  arrivals : List SrcByte
  caller   : Option Request
  byteSide : Option Request
  deriving DecidableEq, Repr

/-- The framer and its ports. -/
structure State where
  /-- ACTIVE, R20 -/
  active     : Bool
  /-- PROTO_SEL, R20 -/
  protoSel   : Proto
  /-- ST, R14 -/
  st         : Tag
  /-- CNT, R15 -/
  cnt        : BitVec 6
  /-- CKSUM, R16 -/
  cksum      : Half
  /-- CK_LO, R17 -/
  ckLo       : Byte
  /-- RAW[0..21], R18 -/
  raw        : Vector Byte Config.sbusPayload
  /-- SFLAGS, R19 -/
  sflags     : Byte
  /-- WORK: CH[0..15] and EFLAGS, R12 -/
  work       : RCMessage
  /-- MEM, WR, RD, COUNT, R21, R22 -/
  fifo       : Fifo
  /-- BAUD, R24 -/
  baud       : Word
  /-- TIMEOUT_MS, R24 -/
  timeoutMs  : Word
  /-- IDLE_US, R24 -/
  idleUs     : Word
  /-- LAST_MSG_MS, R25 -/
  lastMsgMs  : Word
  /-- LAST_BYTE_US, R26 -/
  lastByteUs : Word
  /-- EXPECT_START, R27 -/
  expectStart : Bool
  /-- now_us, the time base as the current step samples it, R213 (log 5) -/
  nowUs      : Word
  /-- now_ms, R213 (log 5) -/
  nowMs      : Word
  /-- the bytes buffered in the byte source, oldest first, R217 (log 6) -/
  src        : List SrcByte
  /-- the requests to come, one entry a clock, R4 (log 3) -/
  inputs     : List Clock
  /-- the outputs of the last step, R72, R73 (log 14) -/
  out        : Outputs
  deriving DecidableEq, Repr

/-- RAW with every byte 0. -/
def rawZero : Vector Byte Config.sbusPayload :=
  #v[0, 0, 0, 0, 0, 0, 0, 0, 0, 0, 0, 0, 0, 0, 0, 0, 0, 0, 0, 0, 0, 0]

/-- N storage elements, empty (R33: "every element MSG_ZERO", WR = RD = COUNT = 0). -/
def Fifo.empty (n : Nat) : Fifo :=
  { mem := List.replicate n RCMessage.zero, wr := 0, rd := 0, count := 0 }

/-- N, the capacity: the number of storage elements (R21). -/
def Fifo.depth (f : Fifo) : Nat := f.mem.length

/-- Power-on reset of an instance of FIFO depth `n` (R33, column "power-on reset"; R230). -/
def State.powerOn (n : Nat) : State :=
  { active := false
    protoSel := .none
    st := .initial
    cnt := 0
    cksum := Config.ibusCkInit
    ckLo := 0
    raw := rawZero
    sflags := 0
    work := RCMessage.zero
    fifo := Fifo.empty n
    baud := Config.defaultBaud
    timeoutMs := Config.defaultTimeoutMs
    idleUs := Config.defaultIdleUs
    lastMsgMs := 0
    lastByteUs := 0
    expectStart := false
    nowUs := 0
    nowMs := 0
    src := []
    inputs := []
    out := Outputs.zero }

/-- The machine right after power-on reset, at the spec's default depth (log 1). -/
def State.reset : State := State.powerOn Config.fifoDepth

end Sys2Proof.Machine
end

