-- ==== Sys2Proof/Machine/Flags.lean ====
section
/-! DEFINITION. Machine/Flags.lean: every computed flag and comparison: the error flags (R152, R76), EMPTY and FULL
(R28), elapsed time and "exceeds" (R214, R77). The framer has no condition codes (R28). -/

namespace Sys2Proof.Machine

/-- `{ 0b000000, SFLAGS[3], SFLAGS[2] }` (R150 line 2, R152): bit 0 = frame-lost, bit 1 = failsafe. -/
def errorFlagsOf (sflags : Byte) : Byte :=
  0b000000#6 ++ (BitVec.ofBool (sflags.getLsbD 3) ++ BitVec.ofBool (sflags.getLsbD 2))

/-- EMPTY = (COUNT == 0), R28, R92. -/
def Fifo.isEmpty (f : Fifo) : Bool := f.count == 0

/-- FULL = (COUNT == N), R28, R93. -/
def Fifo.isFull (f : Fifo) : Bool := f.count == f.depth

/-- `elapsed32(now, then) = (now - then) mod 2^32`, R214. -/
def elapsed32 (now before : Word) : Word := now - before

/-- `elapsed > threshold`: strict unsigned, "exceeds" (R77; C2, D21). -/
def exceeds (elapsed threshold : Word) : Bool := decide (elapsed > threshold)

/-- The idle-gap condition of R172 line 2: idle detection enabled, the gap since the previous byte exceeds IDLE_US,
and EXPECT_START = 0. -/
def State.idleGap (s : State) : Bool :=
  s.idleUs != 0 && exceeds (elapsed32 s.nowUs s.lastByteUs) s.idleUs && !s.expectStart

end Sys2Proof.Machine
end

