-- ==== Sys2Proof/Machine/Operands.lean ====
section
/-! DEFINITION. Machine/Operands.lean: how a received byte and the stored bytes become field values: the header byte of
a protocol (R178), the channel and lane a data byte goes to (R61, R130), the checksum field (R43, R62), and UNPACK
(R153, R64). -/

namespace Sys2Proof.Machine

/-- HDR0(p), R178. It is applied to PROTO_SEL, which is IBUS or SBUS whenever ACTIVE = 1 (otherwise log 10). -/
def hdr0 (p : Proto) : Byte :=
  if p = .ibus then Config.ibusHdr0 else Config.sbusHdr

/-- `k <- (CNT - 3) >> 1` (R130 line 2), for the count after the increment. -/
def channelIndex (cnt : BitVec 6) : Nat :=
  ((cnt - 3) >>> 1).toNat

/-- `CNT[0] == 1`: the byte is a low byte (R130 line 3; R61 "odd ... low byte, even = high byte"). -/
def isLowLane (cnt : BitVec 6) : Bool :=
  cnt.getLsbD 0

/-- `v` with the byte `b` in its low lane (bits 7:0) or its high lane (bits 15:8), the other lane unchanged
(R45, R130 line 3). -/
def withLane (v : Half) (low : Bool) (b : Byte) : Half :=
  if low then v.extractLsb' 8 8 ++ b else b ++ v.extractLsb' 0 8

/-- CH with the lane of the byte that makes the count `cnt` written (R130 lines 2 and 3). An index above 15 cannot
arise (R77: "the result is 0 to 13"); the write is then dropped (log 12). -/
def writeLane (ch : Vector Half Config.numCh) (cnt : BitVec 6) (b : Byte) : Vector Half Config.numCh :=
  if h : channelIndex cnt < 16 then
    ch.set (channelIndex cnt) (withLane ch[channelIndex cnt] (isLowLane cnt) b)
  else ch

/-- `{b, CK_LO}`: the received checksum (R43, R132). -/
def receivedChecksum (hi lo : Byte) : Half :=
  hi ++ lo

/-- RAW with `b` at index CNT - 1 (R148 line 1). An index above 21 cannot arise (R148: "index 0..21"); the write is
then dropped (log 12). -/
def writeRaw (raw : Vector Byte Config.sbusPayload) (cnt : BitVec 6) (b : Byte) : Vector Byte Config.sbusPayload :=
  raw.setIfInBounds (cnt - 1).toNat b

/-- `P = sum over i of RAW[i] << (8*i)` (R44, R64, R153), on unbounded integers (R9). -/
def payloadInt : List Byte → Nat
  | [] => 0
  | b :: bs => b.toNat + (payloadInt bs <<< 8)

/-- `UNPACK(RAW, k) = zext_16((P >> (11*k)) & 0x7FF)` (R153). -/
def unpackLane (raw : Vector Byte Config.sbusPayload) (k : Nat) : Half :=
  BitVec.ofNat 16 ((payloadInt raw.toList >>> (11 * k)) &&& 0x7FF)

/-- `CH[k] <- UNPACK(RAW, k) for k = 0..15` (R150 line 1). -/
def unpack (raw : Vector Byte Config.sbusPayload) : Vector Half Config.numCh :=
  #v[unpackLane raw 0, unpackLane raw 1, unpackLane raw 2, unpackLane raw 3,
     unpackLane raw 4, unpackLane raw 5, unpackLane raw 6, unpackLane raw 7,
     unpackLane raw 8, unpackLane raw 9, unpackLane raw 10, unpackLane raw 11,
     unpackLane raw 12, unpackLane raw 13, unpackLane raw 14, unpackLane raw 15]

end Sys2Proof.Machine
end

