-- ==== Sys2Proof/Machine/Ops.lean ====
section
/-! DEFINITION. Machine/Ops.lean: the shared operations: outputs and events of a step, the FIFO primitives
(R90, R91, R95), RESETPARSER (R111), the response to a resynchronisation event (R207), PARSERNOTIFY (R114), the byte
source (R217), and the fetch of the next request (R4, R55). A shared operation that has a result gives the state and
the result. -/

namespace Sys2Proof.Machine

/-! ### Outputs and events -/

/-- All result lines zero, no output, no event: how every step's outputs begin (R73; log 14). -/
def State.clearOut (s : State) : State := { s with out := Outputs.zero }

/-- `raise e` (R9): only the model's record of the step's events changes (log 13). -/
def State.raise (s : State) (e : Event) : State :=
  { s with out := { s.out with events := s.out.events ++ [e] } }

/-- The step ends with no result: every result line is driven zero (R73). -/
def answerNone (s : State) : Host.Outcome State Fault Refusal :=
  .next s

/-- The step ends with the result `ok` (R72). -/
def answerOk (r : State × Bool) : Host.Outcome State Fault Refusal :=
  .next { r.1 with out := { r.1.out with ok := r.2 } }

/-- The step ends with the result `val` (R72). -/
def answerVal (s : State) (v : Word) : Host.Outcome State Fault Refusal :=
  .next { s with out := { s.out with val := v } }

/-- The step ends with the results `ok` and `msg` (R72): `msg` is zero when `ok` is false (R91, D12; log 17). -/
def answerMsg (r : State × Option RCMessage) : Host.Outcome State Fault Refusal :=
  .next { r.1 with out := { r.1.out with ok := r.2.isSome, msg := r.2.getD RCMessage.zero } }

/-! ### The FIFO -/

/-- `FifoRead(i)` (R9). An index outside 0..N-1 cannot arise (R46); it would read MSG_ZERO (log 12). -/
def Fifo.read (f : Fifo) (i : Nat) : RCMessage := f.mem.getD i RCMessage.zero

/-- `FifoWrite(i, m)` (R9). An index outside 0..N-1 cannot arise (R46); the write would be dropped (log 12). -/
def Fifo.write (f : Fifo) (i : Nat) (m : RCMessage) : Fifo := { f with mem := f.mem.set i m }

/-- RB.PUT, R90, "all right-hand sides read before any write". -/
def Fifo.put (f : Fifo) (item : RCMessage) : Fifo :=
  { mem   := (f.write f.wr item).mem
    wr    := (f.wr + 1) % f.depth
    rd    := if f.isFull then (f.rd + 1) % f.depth else f.rd
    count := if f.isFull then f.count else f.count + 1 }

/-- RB.GET, R91: the FIFO after it, and the oldest entry unless empty. -/
def Fifo.get (f : Fifo) : Fifo × Option RCMessage :=
  if f.isEmpty then (f, none)
  else ({ f with rd := (f.rd + 1) % f.depth, count := f.count - 1 }, some (f.read f.rd))

/-- RB.CLEAR, R95: MEM is not written. -/
def Fifo.clear (f : Fifo) : Fifo := { f with wr := 0, rd := 0, count := 0 }

/-- `do RB.GET` as part of a step (R91). -/
def State.fifoGet (s : State) : State × Option RCMessage :=
  ({ s with fifo := s.fifo.get.1 }, s.fifo.get.2)

/-! ### The parser -/

/-- The registers the transition decode reads (R110). -/
def State.parseCtx (s : State) : ParseCtx :=
  { active := s.active, protoSel := s.protoSel, st := s.st }

/-- RESETPARSER, R111: initial state, scratch and working message; nothing else. -/
def State.resetParser (s : State) : State :=
  { s with
    st := .initial, cnt := 0
    cksum := Config.ibusCkInit, ckLo := 0
    raw := rawZero, sflags := 0
    work := RCMessage.zero }

/-- The framer's "trap entry" (R207): a resynchronisation event that changes state is answered by RESETPARSER inside
the step that detected it; nothing is saved and control goes nowhere. There is no return operation (R208). -/
def State.resync (s : State) (e : Event) : State := (s.raise e).resetParser

/-- PARSERNOTIFY, R114: a copy by value of the whole working message into the FIFO; WORK is unchanged. -/
def State.parserNotify (s : State) : State := { s with fifo := s.fifo.put s.work }

/-! ### The byte source -/

/-- `SrcAvailable()`, R217. -/
def State.srcAvailable (s : State) : Nat := s.src.length

/-- `SrcBegin(baud)`, R217: the output issued once by a successful BEGIN. -/
def State.srcBegin (s : State) (baud : Word) : State :=
  { s with out := { s.out with srcBegin := some baud } }

/-- The time bases as the next RXBYTE step of an UPDATE samples them (R173: "fresh samples of now_us, now_ms"). -/
def State.atTime (s : State) (us ms : Word) : State := { s with nowUs := us, nowMs := ms }

/-! ### The next request -/

/-- The request of the next step and the state with it taken from its port (R4, R55; log 3, log 16). The bytes
arriving at the clock enter the byte source first; of two requests at one clock the caller's comes first, the byte
side's stays for the next step. DESIGN CHOICE (log 26): so does a FIFO write on the caller's port beside a FIFO read on
the byte side's, the write then running first; R55 orders only the byte side's write and the caller's read. No request:
the idle clock is passed. -/
def State.fetch (s : State) : Option Request × State :=
  match s.inputs with
  | [] => (none, s)
  | c :: rest =>
    match c.caller with
    | some r =>
      match c.byteSide with
      | some p =>
        (some r, { s with src := s.src ++ c.arrivals
                          inputs := { arrivals := [], caller := none, byteSide := some p } :: rest })
      | none => (some r, { s with src := s.src ++ c.arrivals, inputs := rest })
    | none => (c.byteSide, { s with src := s.src ++ c.arrivals, inputs := rest })

/-- What a step does with a word that is no instruction: a reserved code changes no state and its results are zero
(R75, D7); so does a byte handed to a parser that does not exist (R118); a word that no format has is refused
(log 15). -/
def answerReject (why : Reject) (s : State) : Host.Outcome State Fault Refusal :=
  match why with
  | .reservedCode _ => answerNone s.clearOut
  | .noParser _     => answerNone s.clearOut
  | .shortWord w    => .refused (.malformedCommand (.shortWord w))
  | .wrongWidth o w => .refused (.malformedCommand (.wrongWidth o w))

/-- The word on the caller's port at the next clock, and nothing else there. -/
def State.withRequest (s : State) (w : PortWord) : State :=
  { s with inputs := { arrivals := [], caller := some { word := w, nowUs := s.nowUs, nowMs := s.nowMs }
                       byteSide := none } :: s.inputs }

end Sys2Proof.Machine
end

