-- ==== Sys2Proof/Machine/RingBuffer.lean ====
section
/-! DEFINITION. Machine/RingBuffer.lean: the six operations of the message FIFO (`40_ringbuffer.md`). None depends on
ACTIVE, PROTO_SEL or a time base. -/

namespace Sys2Proof.Machine

/-- RB.PUT, R90: always succeeds, evicting the oldest entry if full; no result. -/
def execRbPut (item : RCMessage) (s : State) : Host.Outcome State Fault Refusal :=
  answerNone { s.clearOut with fifo := s.fifo.put item }

/-- RB.GET, R91. -/
def execRbGet (s : State) : Host.Outcome State Fault Refusal :=
  answerMsg s.clearOut.fifoGet

/-- RB.ISEMPTY, R92. -/
def execRbIsempty (s : State) : Host.Outcome State Fault Refusal :=
  answerOk (s.clearOut, s.fifo.isEmpty)

/-- RB.ISFULL, R93. -/
def execRbIsfull (s : State) : Host.Outcome State Fault Refusal :=
  answerOk (s.clearOut, s.fifo.isFull)

/-- RB.COUNT, R94: `zext_32(COUNT)`; a COUNT that 32 bits do not hold gives a free value (log 18). -/
def execRbCount (s : State) : Host.Outcome State Fault Refusal :=
  answerVal s.clearOut
    (if s.fifo.count < 2 ^ 32 then BitVec.ofNat 32 s.fifo.count else Config.wideCount s.fifo.count)

/-- RB.CLEAR, R95. -/
def execRbClear (s : State) : Host.Outcome State Fault Refusal :=
  answerNone { s.clearOut with fifo := s.fifo.clear }

end Sys2Proof.Machine
end

