-- ==== Sys2Proof/Machine/Ibus.lean ====
section
/-! DEFINITION. Machine/Ibus.lean: the seven transitions of the IBus state machine (`42_ibus.md` R126 to R132), each a
state and PARSEBYTE's result. -/

namespace Sys2Proof.Machine

/-- IBUS.WH0.HDR, R126. -/
def ibusWh0Hdr (s : State) : State × Bool :=
  ({ s with cksum := s.cksum - 0x20, cnt := 1, st := .hasHeader0 }, false)

/-- IBUS.WH0.SKIP, R127: no register is written. -/
def ibusWh0Skip (s : State) : State × Bool :=
  (s.raise .skippedByte, false)

/-- IBUS.H0.HDR1, R128. -/
def ibusH0Hdr1 (s : State) : State × Bool :=
  ({ s with cksum := s.cksum - 0x40, cnt := 2, st := .hasHeader1 }, false)

/-- IBUS.H0.RESYNC, R129. -/
def ibusH0Resync (s : State) : State × Bool :=
  (s.resync .badHeader1, false)

/-- IBUS.H1.DATA, R130 lines 1 to 6. -/
def ibusH1Data (b : Byte) (s : State) : State × Bool :=
  let cnt := s.cnt + 1
  ({ s with
     cnt   := cnt
     work  := { s.work with channels := writeLane s.work.channels cnt b }
     cksum := s.cksum - b.setWidth 16
     st    := if cnt = 30 then .hasFrame else s.st }, false)

/-- IBUS.HF.CKLO, R131. -/
def ibusHfCklo (b : Byte) (s : State) : State × Bool :=
  ({ s with ckLo := b, cnt := 31, st := .hasCheckSum0 }, false)

/-- IBUS.CS0.CKHI, R132: the copy precedes the reset. -/
def ibusCs0Ckhi (b : Byte) (s : State) : State × Bool :=
  if receivedChecksum b s.ckLo = s.cksum then (s.parserNotify.resetParser, true)
  else (s.resync .checksumMismatch, false)

end Sys2Proof.Machine
end

