-- ==== Sys2Proof/Machine/Sbus.lean ====
section
/-! DEFINITION. Machine/Sbus.lean: the six transitions of the SBUS state machine (`43_sbus.md` R146 to R151), each a
state and PARSEBYTE's result. -/

namespace Sys2Proof.Machine

/-- SBUS.WH.HDR, R146. -/
def sbusWhHdr (s : State) : State × Bool :=
  ({ s with cnt := 1, st := .accumulateChannels }, false)

/-- SBUS.WH.SKIP, R147: no register is written. -/
def sbusWhSkip (s : State) : State × Bool :=
  (s.raise .skippedByte, false)

/-- SBUS.ACC.DATA, R148 lines 1 to 4. -/
def sbusAccData (b : Byte) (s : State) : State × Bool :=
  let cnt := s.cnt + 1
  ({ s with
     raw := writeRaw s.raw s.cnt b
     cnt := cnt
     st  := if cnt = 23 then .readFlags else s.st }, false)

/-- SBUS.RF.FLAGS, R149. -/
def sbusRfFlags (b : Byte) (s : State) : State × Bool :=
  ({ s with sflags := b, cnt := 24, st := .validateFooter }, false)

/-- SBUS.VF.OK, R150 lines 1 to 5. -/
def sbusVfOk (s : State) : State × Bool :=
  let s := { s with work := { channels := unpack s.raw, errorFlags := errorFlagsOf s.sflags } }
  (s.parserNotify.resetParser, true)

/-- SBUS.VF.BAD, R151. -/
def sbusVfBad (s : State) : State × Bool :=
  (s.resync .badFooter, false)

end Sys2Proof.Machine
end

