-- ==== Sys2Proof/Machine/Parser.lean ====
section
/-! DEFINITION. Machine/Parser.lean: the ProtocolParser contract (`41_parser_interface.md`): PARSEBYTE and the four
other common operations, and the thirteen transition classes as instructions of their own (log 8, log 9). -/

namespace Sys2Proof.Machine

/-- The rule of a transition class, on the byte that selected it. -/
def transition (c : TransClass) (b : Byte) (s : State) : State × Bool :=
  match c with
  | .ibusWh0Hdr   => ibusWh0Hdr s
  | .ibusWh0Skip  => ibusWh0Skip s
  | .ibusH0Hdr1   => ibusH0Hdr1 s
  | .ibusH0Resync => ibusH0Resync s
  | .ibusH1Data   => ibusH1Data b s
  | .ibusHfCklo   => ibusHfCklo b s
  | .ibusCs0Ckhi  => ibusCs0Ckhi b s
  | .sbusWhHdr    => sbusWhHdr s
  | .sbusWhSkip   => sbusWhSkip s
  | .sbusAccData  => sbusAccData b s
  | .sbusRfFlags  => sbusRfFlags b s
  | .sbusVfOk     => sbusVfOk s
  | .sbusVfBad    => sbusVfBad s

/-- PARSEBYTE as an operation other operations invoke, R110: decode (ST, b) and perform the one matching rule;
nothing, and false, while ACTIVE = 0 (R118). -/
def parseByte (b : Byte) (s : State) : State × Bool :=
  if s.active then transition (s.parseCtx.classOf b) b s else (s, false)

/-- A transition class as an instruction: its rule when ACTIVE = 1 and the state and the byte select it (the rule's
"Condition"); otherwise it has no meaning (log 9). -/
def execClass (c : TransClass) (b : Byte) (s : State) : Host.Outcome State Fault Refusal :=
  if s.active && s.parseCtx.classOf b == c then answerOk (transition c b s.clearOut)
  else .refused (.classNotSelected c)

/-- PARSEBYTE, R110. -/
def execParsebyte (b : Byte) (s : State) : Host.Outcome State Fault Refusal :=
  answerOk (parseByte b s.clearOut)

/-- RESETPARSER, R111. -/
def execResetparser (s : State) : Host.Outcome State Fault Refusal :=
  answerNone s.clearOut.resetParser

/-- LISTENER, R112: COUNT != 0. -/
def execListener (s : State) : Host.Outcome State Fault Refusal :=
  answerOk (s.clearOut, !s.fifo.isEmpty)

/-- GETMSGFIFO, R113: `return do RB.GET`. -/
def execGetmsgfifo (s : State) : Host.Outcome State Fault Refusal :=
  answerMsg s.clearOut.fifoGet

/-- PARSERNOTIFY, R114. -/
def execParsernotify (s : State) : Host.Outcome State Fault Refusal :=
  answerNone s.clearOut.parserNotify

/-- IBUS.WH0.HDR, R126. -/
def execIbusWh0Hdr (s : State) : Host.Outcome State Fault Refusal :=
  execClass .ibusWh0Hdr Config.ibusHdr0 s

/-- IBUS.WH0.SKIP, R127. -/
def execIbusWh0Skip (b : Byte) (s : State) : Host.Outcome State Fault Refusal :=
  execClass .ibusWh0Skip b s

/-- IBUS.H0.HDR1, R128. -/
def execIbusH0Hdr1 (s : State) : Host.Outcome State Fault Refusal :=
  execClass .ibusH0Hdr1 Config.ibusHdr1 s

/-- IBUS.H0.RESYNC, R129. -/
def execIbusH0Resync (b : Byte) (s : State) : Host.Outcome State Fault Refusal :=
  execClass .ibusH0Resync b s

/-- IBUS.H1.DATA, R130. -/
def execIbusH1Data (b : Byte) (s : State) : Host.Outcome State Fault Refusal :=
  execClass .ibusH1Data b s

/-- IBUS.HF.CKLO, R131. -/
def execIbusHfCklo (b : Byte) (s : State) : Host.Outcome State Fault Refusal :=
  execClass .ibusHfCklo b s

/-- IBUS.CS0.CKHI, R132. -/
def execIbusCs0Ckhi (b : Byte) (s : State) : Host.Outcome State Fault Refusal :=
  execClass .ibusCs0Ckhi b s

/-- SBUS.WH.HDR, R146. -/
def execSbusWhHdr (s : State) : Host.Outcome State Fault Refusal :=
  execClass .sbusWhHdr Config.sbusHdr s

/-- SBUS.WH.SKIP, R147. -/
def execSbusWhSkip (b : Byte) (s : State) : Host.Outcome State Fault Refusal :=
  execClass .sbusWhSkip b s

/-- SBUS.ACC.DATA, R148. -/
def execSbusAccData (b : Byte) (s : State) : Host.Outcome State Fault Refusal :=
  execClass .sbusAccData b s

/-- SBUS.RF.FLAGS, R149. -/
def execSbusRfFlags (b : Byte) (s : State) : Host.Outcome State Fault Refusal :=
  execClass .sbusRfFlags b s

/-- SBUS.VF.OK, R150. -/
def execSbusVfOk (s : State) : Host.Outcome State Fault Refusal :=
  execClass .sbusVfOk Config.sbusFooter s

/-- SBUS.VF.BAD, R151. -/
def execSbusVfBad (b : Byte) (s : State) : Host.Outcome State Fault Refusal :=
  execClass .sbusVfBad b s

end Sys2Proof.Machine
end

