-- ==== Sys2Proof/Machine/SerialRx.lean ====
section
/-! DEFINITION. Machine/SerialRx.lean: the public interface (`44_serialrx.md`): BEGIN, RXBYTE, UPDATE, AVAILABLE,
GETMESSAGE, TIMEOUT, TSLM. -/

namespace Sys2Proof.Machine

/-- The writes of a successful BEGIN, R171, in the rule's order. -/
def State.beginWith (cfg : SerialConfig) (s : State) : State :=
  let s := { s with protoSel := cfg.protocol, active := true }
  let s := s.resetParser
  let s := { s with fifo := s.fifo.clear }
  let s := { s with
    baud := cfg.baudrate, timeoutMs := cfg.timeoutMs, idleUs := cfg.idleThresholdUs
    lastMsgMs := s.nowMs, lastByteUs := s.nowUs, expectStart := false }
  s.srcBegin cfg.baudrate

/-- BEGIN, R171: a failure writes no register (R202, D11). -/
def execBegin (cfg : SerialConfig) (s : State) : Host.Outcome State Fault Refusal :=
  if !cfg.srcPresent then answerOk (s.clearOut.raise .noByteSource, false)
  else if !cfg.protocol.supported then answerOk (s.clearOut.raise .unsupportedProtocol, false)
  else answerOk (s.clearOut.beginWith cfg, true)

/-- R172 line 2: the idle heuristic. -/
def State.idleCheck (s : State) : State :=
  if s.idleGap then { s.resync .idleGap with expectStart := true } else s

/-- R172 line 3. -/
def State.stampByte (s : State) : State := { s with lastByteUs := s.nowUs }

/-- R172 lines 5 to 7: PARSEBYTE, and the last-message timestamp on success. -/
def feed (b : Byte) (s : State) : State × Bool :=
  let r := parseByte b s
  (if r.2 then { r.1 with lastMsgMs := r.1.nowMs } else r.1, r.2)

/-- R172 lines 4 to 7: the expect-frame-start filter. -/
def filterAndFeed (b : Byte) (s : State) : State × Bool :=
  if s.expectStart then
    let s := { s with expectStart := false }
    if b = hdr0 s.protoSel then feed b s else (s.raise .idleDiscard, false)
  else feed b s

/-- RXBYTE as UPDATE invokes it, R172; the conditions in the order of R206. -/
def rxByte (b : Byte) (s : State) : State × Bool :=
  if s.active then filterAndFeed b s.idleCheck.stampByte else (s, false)

/-- RXBYTE, R172. -/
def execRxbyte (b : Byte) (s : State) : Host.Outcome State Fault Refusal :=
  answerOk (rxByte b s.clearOut)

/-- The loop of UPDATE, R173, over the bytes buffered when it runs (D24), each with its own time samples. -/
def drain : List SrcByte → State → State
  | [], s => s
  | x :: xs, s => drain xs (rxByte x.byte (s.atTime x.nowUs x.nowMs)).1

/-- UPDATE, R173: consumes no byte while ACTIVE = 0 (R181); no result. -/
def execUpdate (s : State) : Host.Outcome State Fault Refusal :=
  if s.active then answerNone (drain s.src { s.clearOut with src := [] }) else answerNone s.clearOut

/-- AVAILABLE, R174. -/
def execAvailable (s : State) : Host.Outcome State Fault Refusal :=
  answerOk (s.clearOut, s.active && !s.fifo.isEmpty)

/-- GETMESSAGE, R175. -/
def execGetmessage (s : State) : Host.Outcome State Fault Refusal :=
  if s.active then answerMsg s.clearOut.fifoGet else answerMsg (s.clearOut, none)

/-- TIMEOUT, R176. -/
def execTimeout (thresholdMs : Word) (s : State) : Host.Outcome State Fault Refusal :=
  answerOk (s.clearOut, exceeds (elapsed32 s.nowMs s.lastMsgMs) thresholdMs)

/-- TSLM, R177. -/
def execTslm (s : State) : Host.Outcome State Fault Refusal :=
  answerVal s.clearOut (elapsed32 s.nowMs s.lastMsgMs)

end Sys2Proof.Machine
end

