-- ==== Sys2Proof/Machine/Dispatch.lean ====
section
/-! DEFINITION. Machine/Dispatch.lean: one arm per instruction. -/

namespace Sys2Proof.Machine

def exec (i : Instr) (s : State) : Host.Outcome State Fault Refusal :=
  match i with
  | .begin cfg => Sys2Proof.Machine.execBegin cfg s
  | .update => Sys2Proof.Machine.execUpdate s
  | .rxbyte b => Sys2Proof.Machine.execRxbyte b s
  | .available => Sys2Proof.Machine.execAvailable s
  | .getmessage => Sys2Proof.Machine.execGetmessage s
  | .timeout t => Sys2Proof.Machine.execTimeout t s
  | .tslm => Sys2Proof.Machine.execTslm s
  | .parsebyte b => Sys2Proof.Machine.execParsebyte b s
  | .resetparser => Sys2Proof.Machine.execResetparser s
  | .listener => Sys2Proof.Machine.execListener s
  | .getmsgfifo => Sys2Proof.Machine.execGetmsgfifo s
  | .parsernotify => Sys2Proof.Machine.execParsernotify s
  | .rbPut m => Sys2Proof.Machine.execRbPut m s
  | .rbGet => Sys2Proof.Machine.execRbGet s
  | .rbIsempty => Sys2Proof.Machine.execRbIsempty s
  | .rbIsfull => Sys2Proof.Machine.execRbIsfull s
  | .rbCount => Sys2Proof.Machine.execRbCount s
  | .rbClear => Sys2Proof.Machine.execRbClear s
  | .ibusWh0Hdr => Sys2Proof.Machine.execIbusWh0Hdr s
  | .ibusWh0Skip b => Sys2Proof.Machine.execIbusWh0Skip b s
  | .ibusH0Hdr1 => Sys2Proof.Machine.execIbusH0Hdr1 s
  | .ibusH0Resync b => Sys2Proof.Machine.execIbusH0Resync b s
  | .ibusH1Data b => Sys2Proof.Machine.execIbusH1Data b s
  | .ibusHfCklo b => Sys2Proof.Machine.execIbusHfCklo b s
  | .ibusCs0Ckhi b => Sys2Proof.Machine.execIbusCs0Ckhi b s
  | .sbusWhHdr => Sys2Proof.Machine.execSbusWhHdr s
  | .sbusWhSkip b => Sys2Proof.Machine.execSbusWhSkip b s
  | .sbusAccData b => Sys2Proof.Machine.execSbusAccData b s
  | .sbusRfFlags b => Sys2Proof.Machine.execSbusRfFlags b s
  | .sbusVfOk => Sys2Proof.Machine.execSbusVfOk s
  | .sbusVfBad b => Sys2Proof.Machine.execSbusVfBad b s

end Sys2Proof.Machine
end

