-- ==== Sys2Proof/Machine/Simultaneous.lean ====
section
/-! DEFINITION. Machine/Simultaneous.lean: which requests write the FIFO, and the clock at which two do (`20_memory.md`
R53, R240; `93_implementation_defined.md` U17; log 25). -/

namespace Sys2Proof.Machine

/-- Some byte of the byte source completes a frame when UPDATE drains it from `s` (R173). -/
def drainWrites : List SrcByte → State → Bool
  | [], _ => false
  | x :: xs, s =>
    let r := rxByte x.byte (s.atTime x.nowUs x.nowMs)
    r.2 || drainWrites xs r.1

/-- `i`, run in `s`, writes the FIFO as the writing side does (R53): it puts a message, or it empties the FIFO (RB.CLEAR,
a successful BEGIN: "BEGIN counts as an operation of the writing side"). A read of the FIFO is no such write. -/
def writesFifo (i : Instr) (s : State) : Bool :=
  match i with
  | .begin cfg      => cfg.srcPresent && cfg.protocol.supported
  | .update         => s.active && drainWrites s.src { s with src := [] }
  | .rxbyte b       => (rxByte b s).2
  | .parsebyte b    => (parseByte b s).2
  | .parsernotify   => true
  | .rbPut _        => true
  | .rbClear        => true
  | .ibusCs0Ckhi b  => receivedChecksum b s.ckLo == s.cksum
  | .sbusVfOk       => true
  | .available      => false
  | .getmessage     => false
  | .timeout _      => false
  | .tslm           => false
  | .resetparser    => false
  | .listener       => false
  | .getmsgfifo     => false
  | .rbGet          => false
  | .rbIsempty      => false
  | .rbIsfull       => false
  | .rbCount        => false
  | .ibusWh0Hdr     => false
  | .ibusWh0Skip _  => false
  | .ibusH0Hdr1     => false
  | .ibusH0Resync _ => false
  | .ibusH1Data _   => false
  | .ibusHfCklo _   => false
  | .sbusWhHdr      => false
  | .sbusWhSkip _   => false
  | .sbusAccData _  => false
  | .sbusRfFlags _  => false
  | .sbusVfBad _    => false

/-- The request, run in `s` with its own time samples, writes the FIFO. -/
def Request.writesFifo (r : Request) (s : State) : Bool :=
  match decode s.parseCtx r.word with
  | .ok i => Machine.writesFifo i (s.atTime r.nowUs r.nowMs)
  | .error _ => false

/-- At the next clock both ports hold a request, and each of them, run in the state at the start of that clock, writes
the FIFO (U17, log 25). -/
def State.twoFifoWriters (s : State) : Bool :=
  match s.inputs with
  | [] => false
  | c :: _ =>
    match c.caller, c.byteSide with
    | some r, some p =>
      let u := { s with src := s.src ++ c.arrivals }
      r.writesFifo u && p.writesFifo u
    | some _, none => false
    | none, some _ => false
    | none, none => false

end Sys2Proof.Machine
end

