-- ==== Sys2Proof/Machine/Step.lean ====
section
/-! DEFINITION. Machine/Step.lean: one step: take the next request from its port, decode its word in the registers as
they stand, run the instruction with the request's time samples (`20_memory.md` R47, `60_exceptions.md` R213). -/

namespace Sys2Proof.Machine

/-- One atomic step. An instance with N = 0 is refused (R8, log 2), and so is a clock at which two requests write the
FIFO at once (U17, log 25). With no request on a port nothing happens but that
the outputs fall to zero (log 4). -/
def step (s : State) : Host.Outcome State Fault Refusal :=
  if s.fifo.depth = 0 then .refused .fifoDepthZero
  else if s.twoFifoWriters then .refused .twoFifoWriters
  else
    match s.fetch with
    | (none, t) => answerNone t.clearOut
    | (some r, t) =>
      match decode t.parseCtx r.word with
      | .ok i => exec i (t.atTime r.nowUs r.nowMs)
      | .error why => answerReject why (t.atTime r.nowUs r.nowMs)

/-- `s` with the instruction of a table word on the caller's port at the next clock (log 3, log 19). A received byte is
decoded against ACTIVE, PROTO_SEL and ST (R67, R68), so for a row of format "byte" these too are set, to the row's. -/
def State.withFetchWord (s : State) (nbits w : Nat) : State :=
  match tableWord nbits w with
  | .command width bits => s.withRequest (.command width bits)
  | .strobe b => s.withRequest (.strobe b)
  | .parserByte b =>
    let x := tableContext b
    { s.withRequest (.parserByte b) with active := x.active, protoSel := x.protoSel, st := x.st }

end Sys2Proof.Machine
end

