-- ==== Sys2Proof/Safety.lean ====
section
/-! DEFINITION. Safety.lean: the terms claims use: the invariant of the registers, the FIFO's window as a queue, the
legal words on a port, and the wire frames of R60 to R66 written as lists of bytes. -/

namespace Sys2Proof.Machine

/-! ### The FIFO -/

/-- The FIFO invariants of `10_state.md` R23 with the index ranges of R22 and N >= 1 (R7). -/
abbrev Fifo.Wf (f : Fifo) : Prop :=
  0 < f.depth ∧ f.wr < f.depth ∧ f.rd < f.depth ∧ f.count ≤ f.depth ∧ f.wr = (f.rd + f.count) % f.depth

/-- The live entries, oldest first: MEM[RD], MEM[(RD+1) mod N], ... (R23). -/
def Fifo.live (f : Fifo) : List RCMessage :=
  (List.range f.count).map fun i => f.read ((f.rd + i) % f.depth)

/-- A step of one of the FIFO's two ports (R98). -/
inductive PortOp where
  | put (m : RCMessage)
  | get
  deriving DecidableEq, Repr

/-- The instruction of a port step. -/
def PortOp.instr : PortOp → Instr
  | .put m => .rbPut m
  | .get => .rbGet

/-- The items a sequence of port steps puts, in step order (R98). -/
def putItems : List PortOp → List RCMessage
  | [] => []
  | .put m :: ops => m :: putItems ops
  | .get :: ops => putItems ops

/-! ### Running operations one after the other -/

/-- The state after an operation that answers a next state. -/
def after (i : Instr) (s : State) : State :=
  match exec i s with
  | .next t => t
  | .fault _ => s
  | .refused _ => s

/-- The state after a sequence of operations. -/
def afterAll (is : List Instr) (s : State) : State := is.foldl (fun t i => after i t) s

/-- The state after PARSEBYTE of each byte in turn. -/
def afterBytes (bs : List Byte) (s : State) : State := afterAll (bs.map Instr.parsebyte) s

/-- The state after RXBYTE of each buffered byte in turn, each with its own time samples (R173, R81). -/
def afterRx : List SrcByte → State → State
  | [], s => s
  | x :: xs, s => afterRx xs (after (.rxbyte x.byte) (s.atTime x.nowUs x.nowMs))

/-- The events of that sequence, in order. -/
def rxEvents : List SrcByte → State → List Event
  | [], _ => []
  | x :: xs, s =>
    let t := after (.rxbyte x.byte) (s.atTime x.nowUs x.nowMs)
    t.out.events ++ rxEvents xs t

/-! ### The invariant of the registers -/

/-- Every scratch register and WORK at the value RESETPARSER gives it (R111, R33). -/
abbrev State.ScratchReset (s : State) : Prop :=
  s.cnt = 0 ∧ s.cksum = 0xFFFF ∧ s.ckLo = 0 ∧ s.raw = rawZero ∧ s.sflags = 0 ∧ s.work = RCMessage.zero

/-- The sum of all byte lanes of CH, modulo 2^16. -/
def laneSum (ch : Vector Half Config.numCh) : Half :=
  ch.toList.foldr (fun c a => (c.extractLsb' 0 8).setWidth 16 + (c.extractLsb' 8 8).setWidth 16 + a) 0

/-- The lanes of the frame bytes not yet accepted are 0: frame offset 2 + 2k is the low lane of CH[k], offset 3 + 2k
its high lane (R42), and the offsets below `cnt` have been accepted (R15). -/
abbrev lanesClearFrom (ch : Vector Half Config.numCh) (cnt : Nat) : Prop :=
  ∀ k : Fin 16, (cnt ≤ 2 + 2 * k.val → ch[k].extractLsb' 0 8 = 0) ∧ (cnt ≤ 3 + 2 * k.val → ch[k].extractLsb' 8 8 = 0)

/-- The bytes of RAW from index `n` on are 0. -/
abbrev rawClearFrom (raw : Vector Byte Config.sbusPayload) (n : Nat) : Prop :=
  ∀ i : Fin 22, n ≤ i.val → raw[i] = 0

/-- The IBus machine between two steps: R15 (CNT in each state), R29 (initial state, or a consistent prefix of one
frame candidate), R133 (the running checksum), R137 and R138. -/
abbrev State.IbusInv (s : State) : Prop :=
  s.raw = rawZero ∧ s.sflags = 0 ∧ s.work.errorFlags = 0 ∧
  (s.st = .waitingForHeader0 → s.ScratchReset) ∧
  (s.st = .hasHeader0 → s.cnt = 1 ∧ s.cksum = 0xFFDF ∧ s.ckLo = 0 ∧ s.work = RCMessage.zero) ∧
  (s.st = .hasHeader1 → 2 ≤ s.cnt.toNat ∧ s.cnt.toNat ≤ 29 ∧ s.cksum = 0xFF9F - laneSum s.work.channels ∧
    s.ckLo = 0 ∧ lanesClearFrom s.work.channels s.cnt.toNat) ∧
  (s.st = .hasFrame → s.cnt = 30 ∧ s.cksum = 0xFF9F - laneSum s.work.channels ∧
    s.ckLo = 0 ∧ lanesClearFrom s.work.channels 30) ∧
  (s.st = .hasCheckSum0 → s.cnt = 31 ∧ s.cksum = 0xFF9F - laneSum s.work.channels ∧
    lanesClearFrom s.work.channels 30)

/-- The SBUS machine between two steps: R15, R29, R16 and R17 (CKSUM and CK_LO unused), R71 (code 4 unused); WORK is
written only inside the footer's step (R148, R150). -/
abbrev State.SbusInv (s : State) : Prop :=
  s.cksum = 0xFFFF ∧ s.ckLo = 0 ∧ s.work = RCMessage.zero ∧
  (s.st = .waitingForHeader → s.ScratchReset) ∧
  (s.st = .accumulateChannels → 1 ≤ s.cnt.toNat ∧ s.cnt.toNat ≤ 22 ∧ rawClearFrom s.raw (s.cnt.toNat - 1) ∧
    s.sflags = 0) ∧
  (s.st = .readFlags → s.cnt = 23 ∧ s.sflags = 0) ∧
  (s.st = .validateFooter → s.cnt = 24) ∧
  s.st ≠ .code4

/-- The invariant of the machine between two steps: the FIFO (R23); EXPECT_START = 0 (R27); inactive with no protocol
and a parser in its reset state, or active in one of the two protocols (R20, R210) with that machine's registers. -/
abbrev State.Inv (s : State) : Prop :=
  s.fifo.Wf ∧ s.expectStart = false ∧
  (s.active = false → s.protoSel = .none ∧ s.st = .initial ∧ s.ScratchReset) ∧
  (s.active = true → s.protoSel = .ibus ∨ s.protoSel = .sbus) ∧
  (s.active = true → s.protoSel = .ibus → s.IbusInv) ∧
  (s.active = true → s.protoSel = .sbus → s.SbusInv)

/-! ### Legal words on the ports -/

/-- A received byte, or a command word of R72 and R73: at least a code, and with an assigned code exactly its format's
width. -/
def legalWord : PortWord → Bool
  | .strobe _ => true
  | .parserByte _ => true
  | .command width bits =>
    decide (5 ≤ width) &&
      match commandRow (bits.extractLsb' (width - 5) 5).toNat bits with
      | none => true
      | some (f, _) => width == f.width

/-- The words at one clock are legal. -/
def Clock.Legal (c : Clock) : Bool :=
  (c.caller.all fun r => legalWord r.word) && (c.byteSide.all fun r => legalWord r.word)

/-- Every word still to come is legal. -/
abbrev State.InputsLegal (s : State) : Prop := s.inputs.all Clock.Legal = true

/-! ### Wire frames -/

/-- The running value of `30_encoding.md` R62: "initialized to 0xFFFF; for each ... subtract the byte value". -/
def runningChecksum (bs : List Byte) : Half := bs.foldl (fun c b => c - b.setWidth 16) 0xFFFF

/-- The channels an IBus frame with the channel bytes `d` (offsets 2 to 29) encodes (R60, R61): channel k is
`(byte[3+2k] << 8) | byte[2+2k]`; channels 14 and 15 are not carried. -/
def ibusChannels (d : Vector Byte 28) : Vector Half Config.numCh :=
  #v[d[1] ++ d[0], d[3] ++ d[2], d[5] ++ d[4], d[7] ++ d[6], d[9] ++ d[8], d[11] ++ d[10], d[13] ++ d[12],
     d[15] ++ d[14], d[17] ++ d[16], d[19] ++ d[18], d[21] ++ d[20], d[23] ++ d[22], d[25] ++ d[24],
     d[27] ++ d[26], 0, 0]

/-- The message of an IBus frame (R61, R137, R138). -/
def ibusMessage (d : Vector Byte 28) : RCMessage := { channels := ibusChannels d, errorFlags := 0 }

/-- A valid IBus frame (R60, R62, R43): header, channel bytes, checksum low byte, checksum high byte. -/
def ibusFrame (d : Vector Byte 28) : List Byte :=
  let body := [0x20, 0x40] ++ d.toList
  let ck := runningChecksum body
  body ++ [ck.extractLsb' 0 8, ck.extractLsb' 8 8]

/-- An SBUS frame (R63): header, 22 payload bytes, flags, footer. -/
def sbusFrame (payload : Vector Byte 22) (flags footer : Byte) : List Byte :=
  [0x0F] ++ payload.toList ++ [flags, footer]

/-- No gap before a byte of `xs` triggers the idle heuristic: it is disabled, or no elapsed time exceeds the threshold
(R172 line 2); `prev` is the time of the byte before. -/
def quiet (idle prev : Word) : List SrcByte → Bool
  | [] => true
  | x :: xs => (idle == 0 || !(decide (x.nowUs - prev > idle))) && quiet idle x.nowUs xs

/-- The time samples of the last byte of `xs`, or `t` if there is none. -/
def lastSample (t : Word × Word) (xs : List SrcByte) : Word × Word :=
  xs.foldl (fun _ x => (x.nowUs, x.nowMs)) t

end Sys2Proof.Machine
end

