-- ==== Sys2Proof/Certificates/Slice0/Obligations.lean ====
section
/-! DEFINITION. Certificates/Slice0/Obligations.lean: the statements about the framer, from the numbered rules of
spec/. An equation `exec i s = .next { s with ... }` gives the instruction's completion, its result and its frame at
once: every field not named is unchanged. "log <n>" is notes/assumptions/<n>.md. -/

open Sys2Proof Sys2Proof.Machine

/-! ### Decoding -/

/-- Model-level (the codes and layouts are the spec's decisions D7, D8): decoding the word of a well-formed instruction
gives it back, for every operand, wherever the registers admit it. RXBYTE's second word, the strobe of the byte input
(R172), decodes to it in every state. -/
def Obligations.DecodeEncodeRoundTrip : Prop :=
  (∀ (i : Instr) (x : ParseCtx), i.wellFormed = true → i.admittedIn x = true → decode x (encode i) = .ok i) ∧
  (∀ (b : Byte) (x : ParseCtx), decode x (.strobe b) = .ok (.rxbyte b))

/-- The other direction: a word decodes to an instruction only if it is that instruction's word (or, for RXBYTE, the
strobe of the byte input), and the instruction is well-formed and admitted in the registers. -/
def Obligations.DecodedWordIsItsEncoding : Prop :=
  ∀ (x : ParseCtx) (w : PortWord) (i : Instr), decode x w = .ok i →
    (encode i = w ∨ ∃ b, i = .rxbyte b ∧ w = .strobe b) ∧ i.wellFormed = true ∧ i.admittedIn x = true

/-- `30_encoding.md` section 4, R67, R68: within one state the classes are tried in the order listed and the first
whose `(b & mask) == match` holds is the one decoded, for every byte in every state. -/
def Obligations.ClassDecodeIsFirstTableMatch : Prop :=
  ∀ (x : ParseCtx) (b : Byte), classTable.find? (fun c => c.row.matches x b) = some (x.classOf b)

/-- Command words written out in 95_test_vectors.md D-E1, D-E2, a strobe of the byte input (R172), and bytes of R67 and
R68 handed to the parser. -/
def Obligations.SampleWordsDecode : Prop :=
  let idle : ParseCtx := ⟨false, .none, .initial⟩
  decode idle (.command 5 0x04#5) = .ok .available ∧
  decode idle (.command 5 0x1D#5) = .ok .rbClear ∧
  decode idle (.command 13 0x03FF#13) = .ok (.rxbyte 0xFF) ∧
  decode idle (.command 13 0x100F#13) = .ok (.parsebyte 0x0F) ∧
  decode idle (.command 37 0x06000003E8#37) = .ok (.timeout 1000) ∧
  decode idle (.command 104 0x0D0001C200000003E80000012C#104) = .ok (.begin ⟨true, .ibus, 115200, 1000, 300⟩) ∧
  decode idle (.command 104 0x0F0001C200000003E800000000#104) = .ok (.begin ⟨true, .rsvd, 115200, 1000, 0⟩) ∧
  decode ⟨true, .ibus, .hasHeader0⟩ (.strobe 0x40) = .ok (.rxbyte 0x40) ∧
  decode ⟨true, .ibus, .hasHeader0⟩ (.parserByte 0x40) = .ok .ibusH0Hdr1 ∧
  decode ⟨true, .sbus, .validateFooter⟩ (.parserByte 0x04) = .ok (.sbusVfBad 0x04)

/-! ### The step -/

/-- A step runs the decoded instruction: the word at the head of the ports, decoded in the registers as they stand, is
executed with its request's time samples and with the clock's arrivals in the byte source; of two requests at one clock
that do not both write the FIFO (log 25) the caller's runs and the byte side's stays first in line (the ports are the
model's, log 3, log 16, log 26). -/
def Obligations.StepRunsDecodedInstruction : Prop :=
  ∀ (s : State) (arr : List SrcByte) (r p : Request) (rest : List Clock) (i : Instr),
    0 < s.fifo.depth → decode ⟨s.active, s.protoSel, s.st⟩ r.word = .ok i →
    (s.inputs = ⟨arr, some r, none⟩ :: rest →
      step s = exec i { s with src := s.src ++ arr, inputs := rest, nowUs := r.nowUs, nowMs := r.nowMs }) ∧
    (s.inputs = ⟨arr, none, some r⟩ :: rest →
      step s = exec i { s with src := s.src ++ arr, inputs := rest, nowUs := r.nowUs, nowMs := r.nowMs }) ∧
    (s.inputs = ⟨arr, some r, some p⟩ :: rest → s.twoFifoWriters = false →
      step s = exec i { s with src := s.src ++ arr, inputs := ⟨[], none, some p⟩ :: rest,
                               nowUs := r.nowUs, nowMs := r.nowMs })

/-- The model's choice (log 4): a step with no request on a port changes no register; the arrivals of an empty clock
enter the byte source, and the outputs are zero. -/
def Obligations.StepWithoutRequestIsIdle : Prop :=
  ∀ s : State, 0 < s.fifo.depth →
    (s.inputs = [] → step s = .next { s with out := Outputs.zero }) ∧
    (∀ arr rest, s.inputs = ⟨arr, none, none⟩ :: rest →
      step s = .next { s with src := s.src ++ arr, inputs := rest, out := Outputs.zero })

/-- Partly the model's choice. A reserved operation code changes no register and drives every result zero: decision D7
for the code, log 15 (the model's choice) for a code in a word of any width of at least five bits. A byte handed to the
parser while ACTIVE = 0 does the same: log 8 (the model's choice of that kind of word), after decision D10 for PARSEBYTE.
Both on either port, alone or before a word of the byte side, with any arrivals. R8 (decisions D1, D2), log 2: an
instance with N < 1 is refused. U17, log 25: two items put at one clock are refused. -/
def Obligations.WordsAndInstancesWithoutMeaning : Prop :=
  (∀ (s : State) (r : Request) (arr : List SrcByte) (rest : List Clock), 0 < s.fifo.depth →
    (s.inputs = ⟨arr, some r, none⟩ :: rest ∨ s.inputs = ⟨arr, none, some r⟩ :: rest ∨
      ∃ p later, s.inputs = ⟨arr, some r, some p⟩ :: later ∧ rest = ⟨[], none, some p⟩ :: later) →
    ((∃ (width : Nat) (bits : BitVec width), r.word = .command width bits ∧ 5 ≤ width ∧
        (bits.extractLsb' (width - 5) 5).toNat ∈
          [0x00, 0x08, 0x09, 0x0A, 0x0B, 0x0C, 0x0D, 0x0E, 0x0F, 0x15, 0x16, 0x17, 0x1E, 0x1F]) ∨
      (s.active = false ∧ ∃ b, r.word = .parserByte b)) →
    step s = .next { s with
      src := s.src ++ arr, inputs := rest, nowUs := r.nowUs, nowMs := r.nowMs, out := Outputs.zero }) ∧
  (∀ s : State, s.fifo.depth = 0 → step s = .refused .fifoDepthZero) ∧
  (∀ (s : State) (m m' : RCMessage) (us ms us' ms' : Word) (arr : List SrcByte) (rest : List Clock),
    0 < s.fifo.depth →
    s.inputs = ⟨arr, some ⟨encode (.rbPut m), us, ms⟩, some ⟨encode (.rbPut m'), us', ms'⟩⟩ :: rest →
    step s = .refused .twoFifoWriters)

/-- R55 (decision D14; log 16): a read of the FIFO by the caller and a write by the byte side in one clock act as the
read first, then the write: two steps, the first answering the oldest entry. On an empty queue it answers false, and the
msg of zero it then drives is decision D12 (log 17), no rule of the source. -/
def Obligations.SameClockGetBeforePut : Prop :=
  ∀ (s : State) (m : RCMessage) (us ms us' ms' : Word) (rest : List Clock), s.fifo.Wf →
    s.inputs = ⟨[], some ⟨.command 5 0x19#5, us, ms⟩, some ⟨encode (.rbPut m), us', ms'⟩⟩ :: rest →
    ∃ t u, step s = .next t ∧ step t = .next u ∧
      t.out.ok = !s.fifo.live.isEmpty ∧ t.out.msg = s.fifo.live.headD RCMessage.zero ∧
      u.fifo.live = s.fifo.live.tail ++ [m] ∧ u.inputs = rest

/-- "No exceptions or panics anywhere in this design" (R180, R200): from every state of an instance with N >= 1 whose
ports hold legal words only, a step answers a next state, and the words to come are still legal; but a clock at which
two requests both write the FIFO is refused (U17: "true simultaneity of two writes is `refuse`"; log 25). -/
def Obligations.StepAlwaysAnswersNext : Prop :=
  ∀ s : State, 0 < s.fifo.depth → s.InputsLegal →
    (s.twoFifoWriters = false → ∃ t, step s = .next t ∧ 0 < t.fifo.depth ∧ t.InputsLegal) ∧
    (s.twoFifoWriters = true → step s = .refused .twoFifoWriters)

/-! ### Reset and the invariant -/

/-- R33, column "power-on reset" (decision D9), for an instance of every depth: the registers' values. -/
def Obligations.PowerOnValues : Prop :=
  ∀ n : Nat, let s := State.powerOn n
    s.active = false ∧ s.protoSel.code = 0 ∧ s.st.code = 0 ∧ s.cnt = 0 ∧ s.cksum = 0xFFFF ∧ s.ckLo = 0 ∧
    s.raw = Vector.replicate 22 0 ∧ s.sflags = 0 ∧ s.work.channels = Vector.replicate 16 0 ∧
    s.work.errorFlags = 0 ∧ s.fifo.mem = List.replicate n RCMessage.zero ∧ s.fifo.wr = 0 ∧ s.fifo.rd = 0 ∧
    s.fifo.count = 0 ∧ s.baud = 115200 ∧ s.timeoutMs = 1000 ∧ s.idleUs = 0 ∧ s.lastMsgMs = 0 ∧
    s.lastByteUs = 0 ∧ s.expectStart = false

/-- The invariant holds after power-on reset of every instance with N >= 1 (R230: "After power-on reset the FIFO
invariants ... hold"), and at the machine's reset state. -/
def Obligations.PowerOnMeetsInvariant : Prop :=
  (∀ n : Nat, 0 < n → (State.powerOn n).Inv) ∧ State.reset.Inv

/-- Every step keeps the invariant: FIFO indices (R23), EXPECT_START = 0 (R27), legal ACTIVE / PROTO_SEL (R20), and the
registers of the active machine: CNT in each state (R15), initial-state registers (R29), running checksum (R133),
IBus flags and unused channels zero (R137, R138), SBUS unused registers (R16, R17). -/
def Obligations.StepKeepsInvariant : Prop :=
  ∀ s t : State, s.Inv → step s = .next t → t.Inv

/-- R23: the FIFO invariants are preserved by every operation, from every state in which they hold, and no operation
changes N. -/
def Obligations.EveryOperationKeepsFifoInvariants : Prop :=
  ∀ (i : Instr) (s t : State), s.fifo.Wf → exec i s = .next t → t.fifo.Wf ∧ t.fifo.depth = s.fifo.depth

/-! ### The ring buffer -/

/-- R90: RB.PUT writes MEM[WR], advances WR, and on a full buffer RD, otherwise COUNT; no result, no event. -/
def Obligations.RbPutResult : Prop :=
  ∀ (m : RCMessage) (s : State), exec (.rbPut m) s = .next { s with
    fifo := { mem   := s.fifo.mem.set s.fifo.wr m
              wr    := (s.fifo.wr + 1) % s.fifo.mem.length
              rd    := if s.fifo.count = s.fifo.mem.length then (s.fifo.rd + 1) % s.fifo.mem.length else s.fifo.rd
              count := if s.fifo.count = s.fifo.mem.length then s.fifo.count else s.fifo.count + 1 }
    out := Outputs.zero }

/-- R91, R113, R175 (with decisions D12: msg zero when ok = 0, D13: the slot keeps its content, D10: false while
ACTIVE = 0; log 17): RB.GET and GETMSGFIFO in any state, GETMESSAGE when ACTIVE = 1, remove and return the oldest
entry; on an empty queue, and GETMESSAGE while ACTIVE = 0, false with nothing changed. -/
def Obligations.QueueReadResult : Prop :=
  ∀ s : State,
    let empty : State := { s with out := Outputs.zero }
    let taken : State := { s with
      fifo := { s.fifo with rd := (s.fifo.rd + 1) % s.fifo.mem.length, count := s.fifo.count - 1 }
      out := { Outputs.zero with ok := true, msg := s.fifo.mem.getD s.fifo.rd RCMessage.zero } }
    (s.fifo.count = 0 →
      exec .rbGet s = .next empty ∧ exec .getmsgfifo s = .next empty ∧ exec .getmessage s = .next empty) ∧
    (s.active = false → exec .getmessage s = .next empty) ∧
    (0 < s.fifo.count → s.fifo.rd < s.fifo.mem.length →
      exec .rbGet s = .next taken ∧ exec .getmsgfifo s = .next taken ∧
      (s.active = true → exec .getmessage s = .next taken))

/-- R92, R93, R94: the queries answer COUNT == 0, COUNT == N, zext_32(COUNT) and write nothing. What RB.COUNT answers for
a COUNT that 32 bits do not hold is a free value (log 18): nothing is said of it but that it is driven. -/
def Obligations.RbQueriesResult : Prop :=
  ∀ s : State,
    exec .rbIsempty s = .next { s with out := { Outputs.zero with ok := decide (s.fifo.count = 0) } } ∧
    exec .rbIsfull s = .next { s with out := { Outputs.zero with ok := decide (s.fifo.count = s.fifo.mem.length) } } ∧
    ∃ v : Word, exec .rbCount s = .next { s with out := { Outputs.zero with val := v } } ∧
      (s.fifo.count < 2 ^ 32 → v.toNat = s.fifo.count ∧ (s.fifo.Wf → v.toNat ≤ s.fifo.depth))

/-- R95 (with decision D13): RB.CLEAR writes WR, RD and COUNT and nothing else. -/
def Obligations.RbClearResult : Prop :=
  ∀ s : State, exec .rbClear s =
    .next { s with fifo := { mem := s.fifo.mem, wr := 0, rd := 0, count := 0 }, out := Outputs.zero }

/-- R90: "queue always holds the N most recent": RB.PUT appends the item to the live entries, dropping the oldest if
the buffer was full. -/
def Obligations.PutKeepsNewest : Prop :=
  ∀ (m : RCMessage) (s : State), s.fifo.Wf → ∃ t, exec (.rbPut m) s = .next t ∧
    t.fifo.live = (s.fifo.live ++ [m]).drop (s.fifo.live.length + 1 - s.fifo.depth)

/-- R91: RB.GET "returns false iff empty, otherwise removes and returns the oldest item". -/
def Obligations.GetTakesOldest : Prop :=
  ∀ s : State, s.fifo.Wf → ∃ t, exec .rbGet s = .next t ∧ t.fifo.live = s.fifo.live.tail ∧
    t.out.ok = !s.fifo.live.isEmpty ∧ t.out.msg = s.fifo.live.headD RCMessage.zero

/-- R98, the FIFO law: after any sequence of RB.PUT and RB.GET from an empty buffer, the live entries are exactly the
last ones put, in order. -/
def Obligations.FifoLaw : Prop :=
  ∀ (ops : List PortOp) (s : State), s.fifo.Wf → s.fifo.count = 0 →
    let t := afterAll (ops.map PortOp.instr) s
    t.fifo.live.length = t.fifo.count ∧ t.fifo.count ≤ s.fifo.depth ∧
      t.fifo.live = (putItems ops).drop ((putItems ops).length - t.fifo.count)

/-- R99: with N = 4, from any empty buffer, inserting 5 items leaves COUNT = 4 and the gets return items 2 to 5 in
insertion order, then false. -/
def Obligations.FiveItemsInDepthFour : Prop :=
  ∀ (s : State) (m1 m2 m3 m4 m5 : RCMessage), s.fifo.Wf → s.fifo.depth = 4 → s.fifo.count = 0 →
    let t := afterAll [.rbPut m1, .rbPut m2, .rbPut m3, .rbPut m4, .rbPut m5] s
    (after .rbCount t).out.val = 4 ∧
    (afterAll [.rbGet] t).out.msg = m2 ∧ (afterAll [.rbGet] t).out.ok = true ∧
    (afterAll [.rbGet, .rbGet] t).out.msg = m3 ∧
    (afterAll [.rbGet, .rbGet, .rbGet] t).out.msg = m4 ∧
    (afterAll [.rbGet, .rbGet, .rbGet, .rbGet] t).out.msg = m5 ∧
    (afterAll [.rbGet, .rbGet, .rbGet, .rbGet] t).out.ok = true ∧
    (afterAll [.rbGet, .rbGet, .rbGet, .rbGet, .rbGet] t).out.ok = false

/-! ### The parser interface -/

/-- R110, R118 (decision D10): PARSEBYTE performs exactly the one transition class the byte selects, and does nothing
while ACTIVE = 0. -/
def Obligations.ParsebyteRunsItsClass : Prop :=
  ∀ (s : State) (b : Byte),
    (s.active = false → exec (.parsebyte b) s = .next { s with out := Outputs.zero }) ∧
    (s.active = true → ∃ t, exec (.parsebyte b) s = .next t ∧
      exec ((ParseCtx.classOf ⟨true, s.protoSel, s.st⟩ b).instr b) s = .next t)

/-- R117, R110: PARSEBYTE returns true exactly when this step put one message into the FIFO, which only IBUS.CS0.CKHI
and SBUS.VF.OK do; otherwise the FIFO is untouched. -/
def Obligations.ParsebyteTrueIffEnqueued : Prop :=
  ∀ (s : State) (b : Byte), ∃ t, exec (.parsebyte b) s = .next t ∧
    (t.out.ok = false → t.fifo = s.fifo) ∧
    (t.out.ok = true → (∃ m, exec (.rbPut m) s = .next { s with fifo := t.fifo, out := Outputs.zero }) ∧
      ParseCtx.classOf ⟨s.active, s.protoSel, s.st⟩ b ∈ [TransClass.ibusCs0Ckhi, TransClass.sbusVfOk])

/-- "the state machine is not idle-aware by itself" (R134; R110): PARSEBYTE neither reads nor writes the time bases,
the timestamps, IDLE_US, EXPECT_START or the other transport registers. -/
def Obligations.ParsebyteIgnoresTransport : Prop :=
  ∀ (s : State) (b : Byte) (baud tmo idle lm lb us ms : Word) (e : Bool) (xs : List SrcByte), ∃ t,
    exec (.parsebyte b) s = .next t ∧
    exec (.parsebyte b) { s with baud := baud, timeoutMs := tmo, idleUs := idle, lastMsgMs := lm, lastByteUs := lb,
                                 nowUs := us, nowMs := ms, expectStart := e, src := xs } =
      .next { t with baud := baud, timeoutMs := tmo, idleUs := idle, lastMsgMs := lm, lastByteUs := lb,
                     nowUs := us, nowMs := ms, expectStart := e, src := xs }

/-- R111 (with decisions D23, D27): RESETPARSER writes the state tag, the scratch and the working message and nothing
else: FIFO, configuration, timestamps and EXPECT_START survive. -/
def Obligations.ResetparserResult : Prop :=
  ∀ s : State, exec .resetparser s = .next { s with
    st := .initial, cnt := 0, cksum := 0xFFFF, ckLo := 0, raw := Vector.replicate 22 0, sflags := 0
    work := ⟨Vector.replicate 16 0, 0⟩, out := Outputs.zero }

/-- R112: LISTENER answers COUNT != 0 and writes nothing. -/
def Obligations.ListenerResult : Prop :=
  ∀ s : State, exec .listener s = .next { s with out := { Outputs.zero with ok := decide (s.fifo.count ≠ 0) } }

/-- R114 (which the spec marks derived): PARSERNOTIFY puts a copy of CH and EFLAGS into the FIFO as RB.PUT does and
leaves WORK as it is. -/
def Obligations.ParsernotifyResult : Prop :=
  ∀ s : State, ∃ t, exec .parsernotify s = .next t ∧ exec (.rbPut s.work) s = .next t ∧ t.work = s.work ∧
    t = { s with fifo := t.fifo, out := Outputs.zero }

/-- R115: with the parser in its initial state, a byte other than the protocol's header byte changes no register, and
the header byte leaves the initial state. -/
def Obligations.OnlyHeaderLeavesInitialState : Prop :=
  ∀ (s : State) (b : Byte), s.active = true → s.st = .initial →
    (s.protoSel = .ibus → b ≠ 0x20 →
      exec (.parsebyte b) s = .next { s with out := { Outputs.zero with events := [.skippedByte] } }) ∧
    (s.protoSel = .sbus → b ≠ 0x0F →
      exec (.parsebyte b) s = .next { s with out := { Outputs.zero with events := [.skippedByte] } }) ∧
    (s.protoSel = .ibus → b = 0x20 → ∃ t, exec (.parsebyte b) s = .next t ∧ t.st = .hasHeader0) ∧
    (s.protoSel = .sbus → b = 0x0F → ∃ t, exec (.parsebyte b) s = .next t ∧ t.st = .accumulateChannels)

/-! ### The IBus transitions -/

/-- R126 (with decision D15): IBUS.WH0.HDR. -/
def Obligations.IbusWh0HdrResult : Prop :=
  ∀ s : State, s.active = true → s.protoSel = .ibus → s.st = .waitingForHeader0 →
    exec .ibusWh0Hdr s =
      .next { s with cksum := s.cksum - 0x20, cnt := 1, st := .hasHeader0, out := Outputs.zero }

/-- R127, R128, R129: IBUS.WH0.SKIP writes no register; IBUS.H0.HDR1 advances; IBUS.H0.RESYNC performs RESETPARSER. -/
def Obligations.IbusSkipHeaderResyncResult : Prop :=
  ∀ (s : State) (b : Byte), s.active = true → s.protoSel = .ibus →
    (s.st = .waitingForHeader0 → b ≠ 0x20 →
      exec (.ibusWh0Skip b) s = .next { s with out := { Outputs.zero with events := [.skippedByte] } }) ∧
    (s.st = .hasHeader0 →
      exec .ibusH0Hdr1 s =
        .next { s with cksum := s.cksum - 0x40, cnt := 2, st := .hasHeader1, out := Outputs.zero }) ∧
    (s.st = .hasHeader0 → b ≠ 0x40 →
      exec (.ibusH0Resync b) s = .next { s with
        st := .initial, cnt := 0, cksum := 0xFFFF, ckLo := 0, raw := rawZero, sflags := 0, work := RCMessage.zero
        out := { Outputs.zero with events := [.badHeader1] } })

/-- R130, R45, R61 (with decision D18 on the count): IBUS.H1.DATA writes the low lane of CH[(CNT-3)>>1] when the new
count is odd and its high lane when it is even, leaves the other lane and every other channel as they are, subtracts
the byte from the checksum, and moves to HasFrame at 30. -/
def Obligations.IbusH1DataResult : Prop :=
  ∀ (s : State) (b : Byte), s.active = true → s.protoSel = .ibus → s.st = .hasHeader1 →
    2 ≤ s.cnt.toNat → s.cnt.toNat ≤ 29 → ∃ ch : Vector Half 16,
      exec (.ibusH1Data b) s = .next { s with
        cnt := s.cnt + 1, cksum := s.cksum - b.setWidth 16
        work := { s.work with channels := ch }
        st := if s.cnt = 29 then .hasFrame else .hasHeader1
        out := Outputs.zero } ∧
      ∀ j : Fin 16,
        (2 + 2 * j.val = s.cnt.toNat → ch[j] = s.work.channels[j].extractLsb' 8 8 ++ b) ∧
        (3 + 2 * j.val = s.cnt.toNat → ch[j] = b ++ s.work.channels[j].extractLsb' 0 8) ∧
        (2 + 2 * j.val ≠ s.cnt.toNat → 3 + 2 * j.val ≠ s.cnt.toNat → ch[j] = s.work.channels[j])

/-- R131: IBUS.HF.CKLO captures the checksum low byte; CKSUM is not changed. -/
def Obligations.IbusHfCkloResult : Prop :=
  ∀ (s : State) (b : Byte), s.active = true → s.protoSel = .ibus → s.st = .hasFrame →
    exec (.ibusHfCklo b) s = .next { s with ckLo := b, cnt := 31, st := .hasCheckSum0, out := Outputs.zero }

/-- R132: IBUS.CS0.CKHI puts the working message into the FIFO, resets and returns true when `{b, CK_LO} == CKSUM`;
otherwise it only resets and returns false. -/
def Obligations.IbusCs0CkhiResult : Prop :=
  ∀ (s : State) (b : Byte), s.active = true → s.protoSel = .ibus → s.st = .hasCheckSum0 →
    (b ++ s.ckLo = s.cksum → exec (.ibusCs0Ckhi b) s = .next { s with
      fifo := s.fifo.put s.work
      st := .initial, cnt := 0, cksum := 0xFFFF, ckLo := 0, raw := rawZero, sflags := 0, work := RCMessage.zero
      out := { Outputs.zero with ok := true } }) ∧
    (b ++ s.ckLo ≠ s.cksum → exec (.ibusCs0Ckhi b) s = .next { s with
      st := .initial, cnt := 0, cksum := 0xFFFF, ckLo := 0, raw := rawZero, sflags := 0, work := RCMessage.zero
      out := { Outputs.zero with events := [.checksumMismatch] } })

/-- R133, R62 (derived in the spec): in every state that meets the invariant, the last byte of an IBus candidate is
accepted exactly when `{b, CK_LO}` is 0xFFFF less the sum of the 30 header and channel bytes. -/
def Obligations.IbusAcceptsIffChecksumMatches : Prop :=
  ∀ (s : State) (b : Byte), s.Inv → s.active = true → s.protoSel = .ibus → s.st = .hasCheckSum0 →
    ∃ t, exec (.parsebyte b) s = .next t ∧
      (t.out.ok = true ↔ b ++ s.ckLo = 0xFFFF - (0x20 + 0x40 + laneSum s.work.channels))

/-- R137, R138 (derived): every message an IBus framer enqueues for a frame has error_flags 0 and channels 14 and 15
zero. -/
def Obligations.IbusMessagesHaveNoFlags : Prop :=
  ∀ (s : State) (b : Byte), s.Inv → s.active = true → s.protoSel = .ibus →
    ∃ t, exec (.parsebyte b) s = .next t ∧
      (t.out.ok = true → ∃ m : RCMessage, t.fifo = s.fifo.put m ∧ m.errorFlags = 0 ∧
        m.channels[14] = 0 ∧ m.channels[15] = 0)

/-- R139, first property: a valid IBus frame in the byte source, whatever its 28 channel bytes, with no idle gap, is
delivered by one UPDATE as exactly one message with the encoded channels; the parser is back in its initial state and
LAST_MSG_MS is the time sample of the last byte. That UPDATE is one step, that its bytes carry their time samples in the
byte source and that the last sample stays on the time bases is the model's (log 5, log 6, log 7). -/
def Obligations.ValidIbusFrameDelivered : Prop :=
  ∀ (s : State) (d : Vector Byte 28) (xs : List SrcByte),
    s.Inv → s.active = true → s.protoSel = .ibus → s.st = .initial →
    s.src = xs → xs.map (fun x => x.byte) = ibusFrame d → quiet s.idleUs s.lastByteUs xs = true →
    let time := lastSample (s.nowUs, s.nowMs) xs
    exec .update s = .next { s with
      fifo := s.fifo.put (ibusMessage d), src := []
      lastByteUs := time.1, lastMsgMs := time.2, nowUs := time.1, nowMs := time.2, out := Outputs.zero }

/-- R139, second property: with any one byte among offsets 2 to 31 changed, nothing is enqueued and the parser is in its
initial state with every register reset, ready for the next frame (UPDATE in one step, its bytes and the time bases: the
model's log 5, log 6, log 7). -/
def Obligations.MutatedIbusFrameDropped : Prop :=
  ∀ (s : State) (d : Vector Byte 28) (j : Nat) (v : Byte) (xs : List SrcByte),
    s.Inv → s.active = true → s.protoSel = .ibus → s.st = .initial →
    2 ≤ j → j ≤ 31 → (ibusFrame d)[j]? ≠ some v →
    s.src = xs → xs.map (fun x => x.byte) = (ibusFrame d).set j v → quiet s.idleUs s.lastByteUs xs = true →
    let time := lastSample (s.nowUs, s.nowMs) xs
    exec .update s = .next { s with
      src := [], lastByteUs := time.1, nowUs := time.1, nowMs := time.2
      out := { Outputs.zero with events := [.checksumMismatch] } }

/-! ### The SBUS transitions -/

/-- R146 to R149 (which the spec marks derived from R145; index convention D18): SBUS.WH.HDR, SBUS.WH.SKIP,
SBUS.ACC.DATA, SBUS.RF.FLAGS. -/
def Obligations.SbusCollectingResult : Prop :=
  ∀ (s : State) (b : Byte), s.active = true → s.protoSel = .sbus →
    (s.st = .waitingForHeader →
      exec .sbusWhHdr s = .next { s with cnt := 1, st := .accumulateChannels, out := Outputs.zero }) ∧
    (s.st = .waitingForHeader → b ≠ 0x0F →
      exec (.sbusWhSkip b) s = .next { s with out := { Outputs.zero with events := [.skippedByte] } }) ∧
    (s.st = .accumulateChannels → 1 ≤ s.cnt.toNat → s.cnt.toNat ≤ 22 →
      exec (.sbusAccData b) s = .next { s with
        raw := s.raw.setIfInBounds (s.cnt.toNat - 1) b, cnt := s.cnt + 1
        st := if s.cnt = 22 then .readFlags else .accumulateChannels
        out := Outputs.zero }) ∧
    (s.st = .readFlags →
      exec (.sbusRfFlags b) s = .next { s with sflags := b, cnt := 24, st := .validateFooter, out := Outputs.zero })

/-- R150: SBUS.VF.OK unpacks the channels (channel k = `(P >> 11k) & 0x7FF`), sets bit 0 of the flags from SFLAGS[2] and
bit 1 from SFLAGS[3], enqueues, resets, and returns true. -/
def Obligations.SbusVfOkResult : Prop :=
  ∀ s : State, s.active = true → s.protoSel = .sbus → s.st = .validateFooter →
    ∃ m : RCMessage,
      exec .sbusVfOk s = .next { s with
        fifo := s.fifo.put m
        st := .initial, cnt := 0, cksum := 0xFFFF, ckLo := 0, raw := rawZero, sflags := 0, work := RCMessage.zero
        out := { Outputs.zero with ok := true } } ∧
      (∀ k : Fin 16, m.channels[k].toNat =
        (((List.range 22).map fun i => (s.raw[i]?.getD 0).toNat <<< (8 * i)).sum >>> (11 * k.val)) &&& 0x7FF) ∧
      m.errorFlags = 0b000000#6 ++ (BitVec.ofBool (s.sflags.getLsbD 3) ++ BitVec.ofBool (s.sflags.getLsbD 2))

/-- R151: SBUS.VF.BAD only resets and returns false; the byte is not re-examined as a header. -/
def Obligations.SbusVfBadResult : Prop :=
  ∀ (s : State) (b : Byte), s.active = true → s.protoSel = .sbus → s.st = .validateFooter → b ≠ 0x00 →
    exec (.sbusVfBad b) s = .next { s with
      st := .initial, cnt := 0, cksum := 0xFFFF, ckLo := 0, raw := rawZero, sflags := 0, work := RCMessage.zero
      out := { Outputs.zero with events := [.badFooter] } }

/-- R65 (rows 3 to 15 by decision D26): UNPACK, lane by lane, is the byte-and-shift table. -/
def Obligations.UnpackIsTheShiftTable : Prop :=
  ∀ raw : Vector Byte 22, let b := fun i => (raw[i]?.getD 0).toNat
    (unpack raw).toList.map BitVec.toNat = [
      (b 0 ||| b 1 <<< 8) &&& 0x7FF, (b 1 >>> 3 ||| b 2 <<< 5) &&& 0x7FF,
      (b 2 >>> 6 ||| b 3 <<< 2 ||| b 4 <<< 10) &&& 0x7FF, (b 4 >>> 1 ||| b 5 <<< 7) &&& 0x7FF,
      (b 5 >>> 4 ||| b 6 <<< 4) &&& 0x7FF, (b 6 >>> 7 ||| b 7 <<< 1 ||| b 8 <<< 9) &&& 0x7FF,
      (b 8 >>> 2 ||| b 9 <<< 6) &&& 0x7FF, (b 9 >>> 5 ||| b 10 <<< 3) &&& 0x7FF,
      (b 11 ||| b 12 <<< 8) &&& 0x7FF, (b 12 >>> 3 ||| b 13 <<< 5) &&& 0x7FF,
      (b 13 >>> 6 ||| b 14 <<< 2 ||| b 15 <<< 10) &&& 0x7FF, (b 15 >>> 1 ||| b 16 <<< 7) &&& 0x7FF,
      (b 16 >>> 4 ||| b 17 <<< 4) &&& 0x7FF, (b 17 >>> 7 ||| b 18 <<< 1 ||| b 19 <<< 9) &&& 0x7FF,
      (b 19 >>> 2 ||| b 20 <<< 6) &&& 0x7FF, (b 20 >>> 5 ||| b 21 <<< 3) &&& 0x7FF]

/-- R153: "every payload bit belongs to exactly one lane": the sixteen lanes, put back at their places, are the whole
176-bit payload. -/
def Obligations.UnpackLosesNoPayloadBit : Prop :=
  ∀ raw : Vector Byte 22,
    ((unpack raw).toList.zipIdx.map fun p => p.1.toNat <<< (11 * p.2)).sum =
      (raw.toList.zipIdx.map fun p => p.1.toNat <<< (8 * p.2)).sum

/-- R157: the all-zero payload decodes to 16 channels of value 0, the all-0xFF payload to 16 channels of value 0x7FF. -/
def Obligations.UnpackExtremes : Prop :=
  unpack (Vector.replicate 22 0x00) = Vector.replicate 16 0 ∧
  unpack (Vector.replicate 22 0xFF) = Vector.replicate 16 0x7FF

/-- R156 (derived): every message an SBUS framer enqueues for a frame has all channels at most 2047 and error_flags at
most 3. -/
def Obligations.SbusMessagesInRange : Prop :=
  ∀ (s : State) (b : Byte), s.active = true → s.protoSel = .sbus →
    ∃ t, exec (.parsebyte b) s = .next t ∧
      (t.out.ok = true → ∃ m : RCMessage, t.fifo = s.fifo.put m ∧ m.errorFlags.toNat ≤ 3 ∧
        ∀ k : Fin 16, m.channels[k].toNat ≤ 2047)

/-- R63, R155 (derived): any 25 bytes that begin with 0x0F and end with 0x00 are delivered by one UPDATE as exactly one
message, whatever the 22 payload bytes and the flags byte; with any other last byte they are dropped (UPDATE in one step,
its bytes and the time bases: the model's log 5, log 6, log 7). -/
def Obligations.SbusFrameDeliveredIffFooter : Prop :=
  ∀ (s : State) (payload : Vector Byte 22) (flags footer : Byte) (xs : List SrcByte),
    s.Inv → s.active = true → s.protoSel = .sbus → s.st = .initial →
    s.src = xs → xs.map (fun x => x.byte) = sbusFrame payload flags footer →
    quiet s.idleUs s.lastByteUs xs = true →
    let time := lastSample (s.nowUs, s.nowMs) xs
    (footer = 0x00 → exec .update s = .next { s with
      fifo := s.fifo.put ⟨unpack payload, errorFlagsOf flags⟩, src := []
      lastByteUs := time.1, lastMsgMs := time.2, nowUs := time.1, nowMs := time.2, out := Outputs.zero }) ∧
    (footer ≠ 0x00 → exec .update s = .next { s with
      src := [], lastByteUs := time.1, nowUs := time.1, nowMs := time.2
      out := { Outputs.zero with events := [.badFooter] } })

/-- R136, R158 (derived): from any state that meets the invariant, the IBus machine is in its initial state after at
most 31 further bytes, the SBUS machine after at most 24, whatever the bytes. -/
def Obligations.ParserReturnsToInitialState : Prop :=
  ∀ (s : State) (bs : List Byte), s.Inv → s.active = true →
    (s.protoSel = .ibus → bs.length = 31 → ∃ k, k ≤ 31 ∧ (afterBytes (bs.take k) s).st = .initial) ∧
    (s.protoSel = .sbus → bs.length = 24 → ∃ k, k ≤ 24 ∧ (afterBytes (bs.take k) s).st = .initial)

/-- The model's choice (log 9): a transition class has no meaning where its rule's condition fails. -/
def Obligations.ClassRefusedOutsideItsCondition : Prop :=
  ∀ (c : TransClass) (b : Byte) (s : State), (c.instr b).wellFormed = true →
    ¬ ((c.instr b).admittedIn ⟨s.active, s.protoSel, s.st⟩ = true) →
    exec (c.instr b) s = .refused (.classNotSelected c)

/-! ### The transport -/

/-- R171 (corner cases (a), (b) by decision D11; `src_present` D25): BEGIN fails on an absent byte source or an
unsupported selector and then writes no register; otherwise it re-initialises the parser and the FIFO, latches the
configuration, sets both timestamps to now, clears EXPECT_START and opens the byte source at the configured baud. -/
def Obligations.BeginResult : Prop :=
  ∀ (cfg : SerialConfig) (s : State),
    (cfg.srcPresent = false →
      exec (.begin cfg) s = .next { s with out := { Outputs.zero with events := [.noByteSource] } }) ∧
    (cfg.srcPresent = true → cfg.protocol ≠ .ibus → cfg.protocol ≠ .sbus →
      exec (.begin cfg) s = .next { s with out := { Outputs.zero with events := [.unsupportedProtocol] } }) ∧
    (cfg.srcPresent = true → cfg.protocol = .ibus ∨ cfg.protocol = .sbus →
      exec (.begin cfg) s = .next { s with
        protoSel := cfg.protocol, active := true
        st := .initial, cnt := 0, cksum := 0xFFFF, ckLo := 0, raw := rawZero, sflags := 0, work := RCMessage.zero
        fifo := { mem := s.fifo.mem, wr := 0, rd := 0, count := 0 }
        baud := cfg.baudrate, timeoutMs := cfg.timeoutMs, idleUs := cfg.idleThresholdUs
        lastMsgMs := s.nowMs, lastByteUs := s.nowUs, expectStart := false
        out := { Outputs.zero with ok := true, srcBegin := some cfg.baudrate } })

/-- R172 without an idle trigger, and R181 (decision D10) while inactive: RXBYTE stamps LAST_BYTE_US, feeds the byte to
PARSEBYTE, and on success only stamps LAST_MSG_MS. -/
def Obligations.RxbyteFeedsParser : Prop :=
  ∀ (s : State) (b : Byte), s.expectStart = false →
    (s.active = false → exec (.rxbyte b) s = .next { s with out := Outputs.zero }) ∧
    (s.active = true → (s.idleUs = 0 ∨ s.nowUs - s.lastByteUs ≤ s.idleUs) → ∃ t,
      exec (.parsebyte b) { s with lastByteUs := s.nowUs } = .next t ∧
      exec (.rxbyte b) s = .next { t with lastMsgMs := if t.out.ok then s.nowMs else s.lastMsgMs })

/-- R182: after a gap that exceeds the idle threshold, a byte that is not the first header byte is discarded and no
frame starts; the first header byte starts a frame normally. In both cases the parser was reset first. -/
def Obligations.IdleGapDropsOrStartsFrame : Prop :=
  ∀ (s : State) (b : Byte), s.active = true → s.expectStart = false → s.idleUs ≠ 0 →
    s.nowUs - s.lastByteUs > s.idleUs → (s.protoSel = .ibus ∨ s.protoSel = .sbus) →
    let header : Byte := if s.protoSel = .ibus then 0x20 else 0x0F
    (b ≠ header → exec (.rxbyte b) s = .next { s with
      st := .initial, cnt := 0, cksum := 0xFFFF, ckLo := 0, raw := rawZero, sflags := 0, work := RCMessage.zero
      lastByteUs := s.nowUs, out := { Outputs.zero with events := [.idleGap, .idleDiscard] } }) ∧
    (b = header → exec (.rxbyte b) s = .next { s with
      st := .code1, cnt := 1, cksum := if s.protoSel = .ibus then 0xFFDF else 0xFFFF
      ckLo := 0, raw := rawZero, sflags := 0, work := RCMessage.zero
      lastByteUs := s.nowUs, out := { Outputs.zero with events := [.idleGap] } })

/-- R179 (derived): the header filter never changes what the parser would have done: after an idle gap, RXBYTE leaves
the same registers as RESETPARSER followed by PARSEBYTE of the byte, discarded or not. -/
def Obligations.HeaderFilterIsRedundant : Prop :=
  ∀ (s : State) (b : Byte), s.Inv → s.active = true → s.idleUs ≠ 0 → s.nowUs - s.lastByteUs > s.idleUs →
    ∃ r t u, exec .resetparser { s with lastByteUs := s.nowUs } = .next r ∧ exec (.parsebyte b) r = .next t ∧
      exec (.rxbyte b) s = .next u ∧ u = { t with out := u.out } ∧ u.out.ok = t.out.ok

/-- R173, R81 (decision D24), R181 (decision D10): UPDATE performs RXBYTE on each buffered byte in order, each with its
own time samples, and empties the byte source; while ACTIVE = 0 it consumes no byte (in one step, with the time bases and
the byte source as fields: the model's log 5, log 6, log 7). -/
def Obligations.UpdateIsRxbytePerByte : Prop :=
  ∀ s : State,
    (s.active = false → exec .update s = .next { s with out := Outputs.zero }) ∧
    (s.active = true → exec .update s = .next { afterRx s.src { s with src := [] } with
      out := { Outputs.zero with events := rxEvents s.src { s with src := [] } } })

/-- R174: AVAILABLE answers false while ACTIVE = 0 and otherwise COUNT != 0, and writes nothing. -/
def Obligations.AvailableResult : Prop :=
  ∀ s : State,
    (s.active = false → exec .available s = .next { s with out := Outputs.zero }) ∧
    (s.active = true → exec .available s =
      .next { s with out := { Outputs.zero with ok := decide (s.fifo.count ≠ 0) } })

/-- R176 (strict by C2; independent of ACTIVE by decision D10): TIMEOUT. -/
def Obligations.TimeoutResult : Prop :=
  ∀ (s : State) (threshold : Word), exec (.timeout threshold) s = .next { s with
    out := { Outputs.zero with
      ok := decide ((s.nowMs.toNat + 2 ^ 32 - s.lastMsgMs.toNat) % 2 ^ 32 > threshold.toNat) } }

/-- R177: TSLM answers the elapsed milliseconds and writes nothing, and TIMEOUT t at the same now_ms equals TSLM > t. -/
def Obligations.TslmResult : Prop :=
  ∀ s : State, ∃ v : Word,
    exec .tslm s = .next { s with out := { Outputs.zero with val := v } } ∧
    v.toNat = (s.nowMs.toNat + 2 ^ 32 - s.lastMsgMs.toNat) % 2 ^ 32 ∧
    ∀ threshold : Word, exec (.timeout threshold) s =
      .next { s with out := { Outputs.zero with ok := decide (v > threshold) } }

/-- R183: after an RXBYTE that completed a message, TIMEOUT 1000 is false while at most 1000 ms have elapsed since, and
true after that (up to the wrap of the time base). -/
def Obligations.TimeoutAfterMessage : Prop :=
  ∀ (s t : State) (b : Byte) (ms : Word), exec (.rxbyte b) s = .next t → t.out.ok = true →
    ∃ u, exec (.timeout 1000) { t with nowMs := ms } = .next u ∧
      (u.out.ok = true ↔ 1000 < (ms - s.nowMs).toNat)

/-! ### Rules of the whole machine -/

/-- R25 (with R216): LAST_MSG_MS is written only by a successful BEGIN and by RXBYTE (so by UPDATE) when it returns
true; a written value is the step's sample of now_ms. -/
def Obligations.LastMsgWrittenOnlyOnSuccess : Prop :=
  ∀ (i : Instr) (s t : State), exec i s = .next t → i ≠ .update → t.lastMsgMs ≠ s.lastMsgMs →
    t.lastMsgMs = s.nowMs ∧ t.out.ok = true ∧ ((∃ cfg, i = .begin cfg) ∨ (∃ b, i = .rxbyte b))

/-- R210, R231 (decision D11): no operation returns the framer to the inactive condition, and PROTO_SEL is IBUS or SBUS
whenever it is active (R20). -/
def Obligations.NoOperationDeactivates : Prop :=
  ∀ (i : Instr) (s t : State), s.Inv → exec i s = .next t →
    (s.active = true → t.active = true) ∧ (t.active = true → t.protoSel = .ibus ∨ t.protoSel = .sbus)

/-- R56, R24: the protocol, the idle threshold, the baud rate and the stored timeout change only by a successful
BEGIN. -/
def Obligations.ConfigurationChangesOnlyByBegin : Prop :=
  ∀ (i : Instr) (s t : State), exec i s = .next t →
    (t.active, t.protoSel, t.baud, t.timeoutMs, t.idleUs) ≠ (s.active, s.protoSel, s.baud, s.timeoutMs, s.idleUs) →
    ∃ cfg, i = .begin cfg ∧ t.out.ok = true

/-- R24, R9, R201 (log 13, log 14): no operation reads TIMEOUT_MS, BAUD, the outputs of the step before, or the events
it raised: two states that differ only there go on alike. -/
def Obligations.InertRegistersNeverRead : Prop :=
  ∀ (i : Instr) (s t : State) (baud tmo : Word) (o : Outputs), exec i s = .next t →
    ∃ u, exec i { s with baud := baud, timeoutMs := tmo, out := o } = .next u ∧
      u = { t with baud := u.baud, timeoutMs := u.timeoutMs }
end

