-- ==== Sys2Proof/Laws/Fifo.lean ====
section
/-! SUPPORT. Laws/Fifo.lean: every FIFO operation keeps the FIFO's form (`10_state.md` R22, R23) and its depth. -/

namespace Sys2Proof.Machine

@[simp] theorem Fifo.put_depth (f : Fifo) (m : RCMessage) : (f.put m).depth = f.depth := by
  simp [Fifo.put, Fifo.write, Fifo.depth]

@[simp] theorem Fifo.get_depth (f : Fifo) : f.get.1.depth = f.depth := by
  unfold Fifo.get; split <;> rfl

@[simp] theorem Fifo.clear_depth (f : Fifo) : f.clear.depth = f.depth := rfl

/-- What RB.PUT does to the indices, in the two cases of R90. -/
theorem Fifo.put_cases (f : Fifo) (m : RCMessage) :
    (f.count = f.depth ∧ f.put m = ⟨f.mem.set f.wr m, (f.wr + 1) % f.depth, (f.rd + 1) % f.depth, f.count⟩) ∨
    (f.count ≠ f.depth ∧ f.put m = ⟨f.mem.set f.wr m, (f.wr + 1) % f.depth, f.rd, f.count + 1⟩) := by
  by_cases h : f.count = f.depth
  · exact .inl ⟨h, by simp [Fifo.put, Fifo.write, Fifo.isFull, h]⟩
  · exact .inr ⟨h, by simp [Fifo.put, Fifo.write, Fifo.isFull, h]⟩

/-- What RB.GET does and answers, in the two cases of R91. -/
theorem Fifo.get_cases (f : Fifo) :
    (f.count = 0 ∧ f.get = (f, none)) ∨
    (f.count ≠ 0 ∧ f.get = (⟨f.mem, f.wr, (f.rd + 1) % f.depth, f.count - 1⟩, some (f.read f.rd))) := by
  by_cases h : f.count = 0
  · exact .inl ⟨h, by simp [Fifo.get, Fifo.isEmpty, h]⟩
  · exact .inr ⟨h, by simp [Fifo.get, Fifo.isEmpty, h]⟩

theorem Fifo.empty_wf (n : Nat) (h : 0 < n) : (Fifo.empty n).Wf := by
  simp [Fifo.Wf, Fifo.empty, Fifo.depth, h]

theorem Fifo.put_wf (f : Fifo) (m : RCMessage) (h : f.Wf) : (f.put m).Wf := by
  obtain ⟨h0, h1, h2, h3, h4⟩ := h
  unfold Fifo.Wf
  rw [Fifo.put_depth]
  obtain ⟨hf, e⟩ | ⟨hf, e⟩ := f.put_cases m <;> rw [e]
  · refine ⟨h0, Nat.mod_lt _ h0, Nat.mod_lt _ h0, h3, ?_⟩
    simp [h4, hf]
  · refine ⟨h0, Nat.mod_lt _ h0, h2, Nat.lt_of_le_of_ne h3 hf, ?_⟩
    simp [h4, Nat.add_assoc]

theorem Fifo.get_wf (f : Fifo) (h : f.Wf) : f.get.1.Wf := by
  obtain ⟨hc, e⟩ | ⟨hc, e⟩ := f.get_cases
  · rw [e]; exact h
  · obtain ⟨h0, h1, -, h3, h4⟩ := h
    rw [e]
    refine ⟨h0, h1, Nat.mod_lt _ h0, le_trans (Nat.sub_le _ _) h3, ?_⟩
    show f.wr = ((f.rd + 1) % f.depth + (f.count - 1)) % f.depth
    rw [h4, Nat.mod_add_mod]
    congr 1
    omega

theorem Fifo.clear_wf (f : Fifo) (h : f.Wf) : f.clear.Wf :=
  ⟨h.1, h.1, h.1, Nat.zero_le _, by simp [Fifo.clear]⟩

end Sys2Proof.Machine
end

