-- ==== Sys2Proof/Laws/Lanes.lean ====
section
/-! SUPPORT. Laws/Lanes.lean: the byte lanes of a channel (R45, R130) and what writing the lane of an IBus data byte
does to the sum of the lanes and to the lanes still to come. -/

namespace Sys2Proof.Machine

/-- The sum of the two byte lanes of a channel. -/
def lanePair (c : Half) : Half := (c.extractLsb' 0 8).setWidth 16 + (c.extractLsb' 8 8).setWidth 16

theorem laneSum_eq_foldr (ch : Vector Half 16) : laneSum ch = ch.toList.foldr (fun c a => lanePair c + a) 0 := by
  simp [laneSum, lanePair]

theorem append_low (a b : Byte) : (a ++ b : BitVec 16).extractLsb' 0 8 = b := by
  ext i hi
  simp only [BitVec.getElem_extractLsb', Nat.zero_add]
  exact (BitVec.getLsbD_append (x := a) (y := b) (i := i)).trans (by simp [hi])

theorem append_high (a b : Byte) : (a ++ b : BitVec 16).extractLsb' 8 8 = a := by
  ext i hi
  simp only [BitVec.getElem_extractLsb']
  exact (BitVec.getLsbD_append (x := a) (y := b) (i := 8 + i)).trans (by simp [hi])

theorem foldr_set (l : List Half) (i : Nat) (v : Half) (h : i < l.length) :
    (l.set i v).foldr (fun c a => lanePair c + a) 0 + lanePair l[i] =
      l.foldr (fun c a => lanePair c + a) 0 + lanePair v := by
  induction l generalizing i with
  | nil => simp at h
  | cons x xs ih =>
    cases i with
    | zero => simp; ring
    | succ i =>
      simp only [List.set_cons_succ, List.foldr_cons, List.getElem_cons_succ]
      rw [add_assoc, ih i (by simpa using h)]
      ring

theorem laneSum_set (ch : Vector Half 16) (i : Nat) (v : Half) (h : i < 16) :
    laneSum (ch.set i v) = laneSum ch + lanePair v - lanePair ch[i] := by
  have := foldr_set ch.toList i v (by simpa using h)
  rw [laneSum_eq_foldr, laneSum_eq_foldr, Vector.toList_set, eq_sub_iff_add_eq]
  simpa using this

theorem lanePair_withLow (b : Byte) (c : Half) (hc : c.extractLsb' 0 8 = 0) :
    lanePair (withLane c true b) = lanePair c + b.setWidth 16 := by
  simp only [withLane, if_true, lanePair]
  rw [hc, append_low, append_high]
  simp
  ring

theorem lanePair_withHigh (b : Byte) (c : Half) (hc : c.extractLsb' 8 8 = 0) :
    lanePair (withLane c false b) = lanePair c + b.setWidth 16 := by
  simp only [withLane, lanePair]
  rw [if_neg (by decide), hc, append_low, append_high]
  simp

/-- The byte that makes the count c + 1 goes to channel (c - 2) / 2 (R130 line 2, R61). -/
theorem channelIndex_succ (c : BitVec 6) (h1 : 2 ≤ c.toNat) :
    channelIndex (c + 1) = (c.toNat - 2) / 2 := by
  simp only [channelIndex, BitVec.toNat_ushiftRight, Nat.shiftRight_one]
  bv_omega

/-- It is a low byte exactly when c is even (R130 line 3, R61). -/
theorem isLowLane_succ (c : BitVec 6) : isLowLane (c + 1) = decide (c.toNat % 2 = 0) := by
  simp only [isLowLane, BitVec.getLsbD, Nat.testBit_zero]
  apply decide_eq_decide.mpr
  bv_omega

/-- An IBus data byte adds itself to the sum of the lanes and leaves the lanes after its own clear. -/
theorem writeLane_sum_and_clear (ch : Vector Half 16) (c : BitVec 6) (b : Byte) (h1 : 2 ≤ c.toNat)
    (h2 : c.toNat ≤ 29) (hl : lanesClearFrom ch c.toNat) :
    laneSum (writeLane ch (c + 1) b) = laneSum ch + b.setWidth 16 ∧
      lanesClearFrom (writeLane ch (c + 1) b) (c.toNat + 1) := by
  have hk : (c.toNat - 2) / 2 < 16 := by omega
  have hc := hl ⟨(c.toNat - 2) / 2, hk⟩
  simp only [Fin.getElem_fin] at hc
  simp only [writeLane, channelIndex_succ c h1, isLowLane_succ c, hk, dite_true]
  constructor
  · rw [laneSum_set _ _ _ hk]
    by_cases e : c.toNat % 2 = 0
    · rw [decide_eq_true e, lanePair_withLow _ _ (hc.1 (by omega))]; ring
    · rw [decide_eq_false e, lanePair_withHigh _ _ (hc.2 (by omega))]; ring
  · intro j
    have hj := hl j
    simp only [Fin.getElem_fin, Vector.getElem_set] at hj ⊢
    by_cases e2 : (c.toNat - 2) / 2 = j.val
    · simp only [e2, if_true]
      by_cases e : c.toNat % 2 = 0
      · simp only [decide_eq_true e, withLane, if_true, append_low, append_high]
        exact ⟨fun h => by omega, fun h => hj.2 (by omega)⟩
      · rw [decide_eq_false e]
        exact ⟨fun h => by omega, fun h => by omega⟩
    · simp only [e2, if_false]
      exact ⟨fun h => hj.1 (by omega), fun h => hj.2 (by omega)⟩

end Sys2Proof.Machine
end

