-- ==== Sys2Proof/Laws/State.lean ====
section
/-! SUPPORT. Laws/State.lean: what each field is after each named update of a state. -/

namespace Sys2Proof.Machine.State

@[simp] theorem clearOut_active (s : State) : (s.clearOut).active = s.active := rfl
@[simp] theorem clearOut_protoSel (s : State) : (s.clearOut).protoSel = s.protoSel := rfl
@[simp] theorem clearOut_st (s : State) : (s.clearOut).st = s.st := rfl
@[simp] theorem clearOut_cnt (s : State) : (s.clearOut).cnt = s.cnt := rfl
@[simp] theorem clearOut_cksum (s : State) : (s.clearOut).cksum = s.cksum := rfl
@[simp] theorem clearOut_ckLo (s : State) : (s.clearOut).ckLo = s.ckLo := rfl
@[simp] theorem clearOut_raw (s : State) : (s.clearOut).raw = s.raw := rfl
@[simp] theorem clearOut_sflags (s : State) : (s.clearOut).sflags = s.sflags := rfl
@[simp] theorem clearOut_work (s : State) : (s.clearOut).work = s.work := rfl
@[simp] theorem clearOut_fifo (s : State) : (s.clearOut).fifo = s.fifo := rfl
@[simp] theorem clearOut_baud (s : State) : (s.clearOut).baud = s.baud := rfl
@[simp] theorem clearOut_timeoutMs (s : State) : (s.clearOut).timeoutMs = s.timeoutMs := rfl
@[simp] theorem clearOut_idleUs (s : State) : (s.clearOut).idleUs = s.idleUs := rfl
@[simp] theorem clearOut_lastMsgMs (s : State) : (s.clearOut).lastMsgMs = s.lastMsgMs := rfl
@[simp] theorem clearOut_lastByteUs (s : State) : (s.clearOut).lastByteUs = s.lastByteUs := rfl
@[simp] theorem clearOut_expectStart (s : State) : (s.clearOut).expectStart = s.expectStart := rfl
@[simp] theorem clearOut_nowUs (s : State) : (s.clearOut).nowUs = s.nowUs := rfl
@[simp] theorem clearOut_nowMs (s : State) : (s.clearOut).nowMs = s.nowMs := rfl
@[simp] theorem clearOut_src (s : State) : (s.clearOut).src = s.src := rfl
@[simp] theorem clearOut_inputs (s : State) : (s.clearOut).inputs = s.inputs := rfl
@[simp] theorem clearOut_out (s : State) : (s.clearOut).out = Outputs.zero := rfl

@[simp] theorem raise_active (s : State) (e : Event) : (s.raise e).active = s.active := rfl
@[simp] theorem raise_protoSel (s : State) (e : Event) : (s.raise e).protoSel = s.protoSel := rfl
@[simp] theorem raise_st (s : State) (e : Event) : (s.raise e).st = s.st := rfl
@[simp] theorem raise_cnt (s : State) (e : Event) : (s.raise e).cnt = s.cnt := rfl
@[simp] theorem raise_cksum (s : State) (e : Event) : (s.raise e).cksum = s.cksum := rfl
@[simp] theorem raise_ckLo (s : State) (e : Event) : (s.raise e).ckLo = s.ckLo := rfl
@[simp] theorem raise_raw (s : State) (e : Event) : (s.raise e).raw = s.raw := rfl
@[simp] theorem raise_sflags (s : State) (e : Event) : (s.raise e).sflags = s.sflags := rfl
@[simp] theorem raise_work (s : State) (e : Event) : (s.raise e).work = s.work := rfl
@[simp] theorem raise_fifo (s : State) (e : Event) : (s.raise e).fifo = s.fifo := rfl
@[simp] theorem raise_baud (s : State) (e : Event) : (s.raise e).baud = s.baud := rfl
@[simp] theorem raise_timeoutMs (s : State) (e : Event) : (s.raise e).timeoutMs = s.timeoutMs := rfl
@[simp] theorem raise_idleUs (s : State) (e : Event) : (s.raise e).idleUs = s.idleUs := rfl
@[simp] theorem raise_lastMsgMs (s : State) (e : Event) : (s.raise e).lastMsgMs = s.lastMsgMs := rfl
@[simp] theorem raise_lastByteUs (s : State) (e : Event) : (s.raise e).lastByteUs = s.lastByteUs := rfl
@[simp] theorem raise_expectStart (s : State) (e : Event) : (s.raise e).expectStart = s.expectStart := rfl
@[simp] theorem raise_nowUs (s : State) (e : Event) : (s.raise e).nowUs = s.nowUs := rfl
@[simp] theorem raise_nowMs (s : State) (e : Event) : (s.raise e).nowMs = s.nowMs := rfl
@[simp] theorem raise_src (s : State) (e : Event) : (s.raise e).src = s.src := rfl
@[simp] theorem raise_inputs (s : State) (e : Event) : (s.raise e).inputs = s.inputs := rfl
@[simp] theorem raise_out (s : State) (e : Event) : (s.raise e).out = { s.out with events := s.out.events ++ [e] } := rfl

@[simp] theorem resetParser_active (s : State) : (s.resetParser).active = s.active := rfl
@[simp] theorem resetParser_protoSel (s : State) : (s.resetParser).protoSel = s.protoSel := rfl
@[simp] theorem resetParser_st (s : State) : (s.resetParser).st = .initial := rfl
@[simp] theorem resetParser_cnt (s : State) : (s.resetParser).cnt = 0 := rfl
@[simp] theorem resetParser_cksum (s : State) : (s.resetParser).cksum = Config.ibusCkInit := rfl
@[simp] theorem resetParser_ckLo (s : State) : (s.resetParser).ckLo = 0 := rfl
@[simp] theorem resetParser_raw (s : State) : (s.resetParser).raw = rawZero := rfl
@[simp] theorem resetParser_sflags (s : State) : (s.resetParser).sflags = 0 := rfl
@[simp] theorem resetParser_work (s : State) : (s.resetParser).work = RCMessage.zero := rfl
@[simp] theorem resetParser_fifo (s : State) : (s.resetParser).fifo = s.fifo := rfl
@[simp] theorem resetParser_baud (s : State) : (s.resetParser).baud = s.baud := rfl
@[simp] theorem resetParser_timeoutMs (s : State) : (s.resetParser).timeoutMs = s.timeoutMs := rfl
@[simp] theorem resetParser_idleUs (s : State) : (s.resetParser).idleUs = s.idleUs := rfl
@[simp] theorem resetParser_lastMsgMs (s : State) : (s.resetParser).lastMsgMs = s.lastMsgMs := rfl
@[simp] theorem resetParser_lastByteUs (s : State) : (s.resetParser).lastByteUs = s.lastByteUs := rfl
@[simp] theorem resetParser_expectStart (s : State) : (s.resetParser).expectStart = s.expectStart := rfl
@[simp] theorem resetParser_nowUs (s : State) : (s.resetParser).nowUs = s.nowUs := rfl
@[simp] theorem resetParser_nowMs (s : State) : (s.resetParser).nowMs = s.nowMs := rfl
@[simp] theorem resetParser_src (s : State) : (s.resetParser).src = s.src := rfl
@[simp] theorem resetParser_inputs (s : State) : (s.resetParser).inputs = s.inputs := rfl
@[simp] theorem resetParser_out (s : State) : (s.resetParser).out = s.out := rfl

@[simp] theorem resync_active (s : State) (e : Event) : (s.resync e).active = s.active := rfl
@[simp] theorem resync_protoSel (s : State) (e : Event) : (s.resync e).protoSel = s.protoSel := rfl
@[simp] theorem resync_st (s : State) (e : Event) : (s.resync e).st = .initial := rfl
@[simp] theorem resync_cnt (s : State) (e : Event) : (s.resync e).cnt = 0 := rfl
@[simp] theorem resync_cksum (s : State) (e : Event) : (s.resync e).cksum = Config.ibusCkInit := rfl
@[simp] theorem resync_ckLo (s : State) (e : Event) : (s.resync e).ckLo = 0 := rfl
@[simp] theorem resync_raw (s : State) (e : Event) : (s.resync e).raw = rawZero := rfl
@[simp] theorem resync_sflags (s : State) (e : Event) : (s.resync e).sflags = 0 := rfl
@[simp] theorem resync_work (s : State) (e : Event) : (s.resync e).work = RCMessage.zero := rfl
@[simp] theorem resync_fifo (s : State) (e : Event) : (s.resync e).fifo = s.fifo := rfl
@[simp] theorem resync_baud (s : State) (e : Event) : (s.resync e).baud = s.baud := rfl
@[simp] theorem resync_timeoutMs (s : State) (e : Event) : (s.resync e).timeoutMs = s.timeoutMs := rfl
@[simp] theorem resync_idleUs (s : State) (e : Event) : (s.resync e).idleUs = s.idleUs := rfl
@[simp] theorem resync_lastMsgMs (s : State) (e : Event) : (s.resync e).lastMsgMs = s.lastMsgMs := rfl
@[simp] theorem resync_lastByteUs (s : State) (e : Event) : (s.resync e).lastByteUs = s.lastByteUs := rfl
@[simp] theorem resync_expectStart (s : State) (e : Event) : (s.resync e).expectStart = s.expectStart := rfl
@[simp] theorem resync_nowUs (s : State) (e : Event) : (s.resync e).nowUs = s.nowUs := rfl
@[simp] theorem resync_nowMs (s : State) (e : Event) : (s.resync e).nowMs = s.nowMs := rfl
@[simp] theorem resync_src (s : State) (e : Event) : (s.resync e).src = s.src := rfl
@[simp] theorem resync_inputs (s : State) (e : Event) : (s.resync e).inputs = s.inputs := rfl
@[simp] theorem resync_out (s : State) (e : Event) : (s.resync e).out = { s.out with events := s.out.events ++ [e] } := rfl

@[simp] theorem parserNotify_active (s : State) : (s.parserNotify).active = s.active := rfl
@[simp] theorem parserNotify_protoSel (s : State) : (s.parserNotify).protoSel = s.protoSel := rfl
@[simp] theorem parserNotify_st (s : State) : (s.parserNotify).st = s.st := rfl
@[simp] theorem parserNotify_cnt (s : State) : (s.parserNotify).cnt = s.cnt := rfl
@[simp] theorem parserNotify_cksum (s : State) : (s.parserNotify).cksum = s.cksum := rfl
@[simp] theorem parserNotify_ckLo (s : State) : (s.parserNotify).ckLo = s.ckLo := rfl
@[simp] theorem parserNotify_raw (s : State) : (s.parserNotify).raw = s.raw := rfl
@[simp] theorem parserNotify_sflags (s : State) : (s.parserNotify).sflags = s.sflags := rfl
@[simp] theorem parserNotify_work (s : State) : (s.parserNotify).work = s.work := rfl
@[simp] theorem parserNotify_fifo (s : State) : (s.parserNotify).fifo = s.fifo.put s.work := rfl
@[simp] theorem parserNotify_baud (s : State) : (s.parserNotify).baud = s.baud := rfl
@[simp] theorem parserNotify_timeoutMs (s : State) : (s.parserNotify).timeoutMs = s.timeoutMs := rfl
@[simp] theorem parserNotify_idleUs (s : State) : (s.parserNotify).idleUs = s.idleUs := rfl
@[simp] theorem parserNotify_lastMsgMs (s : State) : (s.parserNotify).lastMsgMs = s.lastMsgMs := rfl
@[simp] theorem parserNotify_lastByteUs (s : State) : (s.parserNotify).lastByteUs = s.lastByteUs := rfl
@[simp] theorem parserNotify_expectStart (s : State) : (s.parserNotify).expectStart = s.expectStart := rfl
@[simp] theorem parserNotify_nowUs (s : State) : (s.parserNotify).nowUs = s.nowUs := rfl
@[simp] theorem parserNotify_nowMs (s : State) : (s.parserNotify).nowMs = s.nowMs := rfl
@[simp] theorem parserNotify_src (s : State) : (s.parserNotify).src = s.src := rfl
@[simp] theorem parserNotify_inputs (s : State) : (s.parserNotify).inputs = s.inputs := rfl
@[simp] theorem parserNotify_out (s : State) : (s.parserNotify).out = s.out := rfl

@[simp] theorem srcBegin_active (s : State) (b : Word) : (s.srcBegin b).active = s.active := rfl
@[simp] theorem srcBegin_protoSel (s : State) (b : Word) : (s.srcBegin b).protoSel = s.protoSel := rfl
@[simp] theorem srcBegin_st (s : State) (b : Word) : (s.srcBegin b).st = s.st := rfl
@[simp] theorem srcBegin_cnt (s : State) (b : Word) : (s.srcBegin b).cnt = s.cnt := rfl
@[simp] theorem srcBegin_cksum (s : State) (b : Word) : (s.srcBegin b).cksum = s.cksum := rfl
@[simp] theorem srcBegin_ckLo (s : State) (b : Word) : (s.srcBegin b).ckLo = s.ckLo := rfl
@[simp] theorem srcBegin_raw (s : State) (b : Word) : (s.srcBegin b).raw = s.raw := rfl
@[simp] theorem srcBegin_sflags (s : State) (b : Word) : (s.srcBegin b).sflags = s.sflags := rfl
@[simp] theorem srcBegin_work (s : State) (b : Word) : (s.srcBegin b).work = s.work := rfl
@[simp] theorem srcBegin_fifo (s : State) (b : Word) : (s.srcBegin b).fifo = s.fifo := rfl
@[simp] theorem srcBegin_baud (s : State) (b : Word) : (s.srcBegin b).baud = s.baud := rfl
@[simp] theorem srcBegin_timeoutMs (s : State) (b : Word) : (s.srcBegin b).timeoutMs = s.timeoutMs := rfl
@[simp] theorem srcBegin_idleUs (s : State) (b : Word) : (s.srcBegin b).idleUs = s.idleUs := rfl
@[simp] theorem srcBegin_lastMsgMs (s : State) (b : Word) : (s.srcBegin b).lastMsgMs = s.lastMsgMs := rfl
@[simp] theorem srcBegin_lastByteUs (s : State) (b : Word) : (s.srcBegin b).lastByteUs = s.lastByteUs := rfl
@[simp] theorem srcBegin_expectStart (s : State) (b : Word) : (s.srcBegin b).expectStart = s.expectStart := rfl
@[simp] theorem srcBegin_nowUs (s : State) (b : Word) : (s.srcBegin b).nowUs = s.nowUs := rfl
@[simp] theorem srcBegin_nowMs (s : State) (b : Word) : (s.srcBegin b).nowMs = s.nowMs := rfl
@[simp] theorem srcBegin_src (s : State) (b : Word) : (s.srcBegin b).src = s.src := rfl
@[simp] theorem srcBegin_inputs (s : State) (b : Word) : (s.srcBegin b).inputs = s.inputs := rfl
@[simp] theorem srcBegin_out (s : State) (b : Word) : (s.srcBegin b).out = { s.out with srcBegin := some b } := rfl

@[simp] theorem atTime_active (s : State) (us ms : Word) : (s.atTime us ms).active = s.active := rfl
@[simp] theorem atTime_protoSel (s : State) (us ms : Word) : (s.atTime us ms).protoSel = s.protoSel := rfl
@[simp] theorem atTime_st (s : State) (us ms : Word) : (s.atTime us ms).st = s.st := rfl
@[simp] theorem atTime_cnt (s : State) (us ms : Word) : (s.atTime us ms).cnt = s.cnt := rfl
@[simp] theorem atTime_cksum (s : State) (us ms : Word) : (s.atTime us ms).cksum = s.cksum := rfl
@[simp] theorem atTime_ckLo (s : State) (us ms : Word) : (s.atTime us ms).ckLo = s.ckLo := rfl
@[simp] theorem atTime_raw (s : State) (us ms : Word) : (s.atTime us ms).raw = s.raw := rfl
@[simp] theorem atTime_sflags (s : State) (us ms : Word) : (s.atTime us ms).sflags = s.sflags := rfl
@[simp] theorem atTime_work (s : State) (us ms : Word) : (s.atTime us ms).work = s.work := rfl
@[simp] theorem atTime_fifo (s : State) (us ms : Word) : (s.atTime us ms).fifo = s.fifo := rfl
@[simp] theorem atTime_baud (s : State) (us ms : Word) : (s.atTime us ms).baud = s.baud := rfl
@[simp] theorem atTime_timeoutMs (s : State) (us ms : Word) : (s.atTime us ms).timeoutMs = s.timeoutMs := rfl
@[simp] theorem atTime_idleUs (s : State) (us ms : Word) : (s.atTime us ms).idleUs = s.idleUs := rfl
@[simp] theorem atTime_lastMsgMs (s : State) (us ms : Word) : (s.atTime us ms).lastMsgMs = s.lastMsgMs := rfl
@[simp] theorem atTime_lastByteUs (s : State) (us ms : Word) : (s.atTime us ms).lastByteUs = s.lastByteUs := rfl
@[simp] theorem atTime_expectStart (s : State) (us ms : Word) : (s.atTime us ms).expectStart = s.expectStart := rfl
@[simp] theorem atTime_nowUs (s : State) (us ms : Word) : (s.atTime us ms).nowUs = us := rfl
@[simp] theorem atTime_nowMs (s : State) (us ms : Word) : (s.atTime us ms).nowMs = ms := rfl
@[simp] theorem atTime_src (s : State) (us ms : Word) : (s.atTime us ms).src = s.src := rfl
@[simp] theorem atTime_inputs (s : State) (us ms : Word) : (s.atTime us ms).inputs = s.inputs := rfl
@[simp] theorem atTime_out (s : State) (us ms : Word) : (s.atTime us ms).out = s.out := rfl

@[simp] theorem stampByte_active (s : State) : (s.stampByte).active = s.active := rfl
@[simp] theorem stampByte_protoSel (s : State) : (s.stampByte).protoSel = s.protoSel := rfl
@[simp] theorem stampByte_st (s : State) : (s.stampByte).st = s.st := rfl
@[simp] theorem stampByte_cnt (s : State) : (s.stampByte).cnt = s.cnt := rfl
@[simp] theorem stampByte_cksum (s : State) : (s.stampByte).cksum = s.cksum := rfl
@[simp] theorem stampByte_ckLo (s : State) : (s.stampByte).ckLo = s.ckLo := rfl
@[simp] theorem stampByte_raw (s : State) : (s.stampByte).raw = s.raw := rfl
@[simp] theorem stampByte_sflags (s : State) : (s.stampByte).sflags = s.sflags := rfl
@[simp] theorem stampByte_work (s : State) : (s.stampByte).work = s.work := rfl
@[simp] theorem stampByte_fifo (s : State) : (s.stampByte).fifo = s.fifo := rfl
@[simp] theorem stampByte_baud (s : State) : (s.stampByte).baud = s.baud := rfl
@[simp] theorem stampByte_timeoutMs (s : State) : (s.stampByte).timeoutMs = s.timeoutMs := rfl
@[simp] theorem stampByte_idleUs (s : State) : (s.stampByte).idleUs = s.idleUs := rfl
@[simp] theorem stampByte_lastMsgMs (s : State) : (s.stampByte).lastMsgMs = s.lastMsgMs := rfl
@[simp] theorem stampByte_lastByteUs (s : State) : (s.stampByte).lastByteUs = s.nowUs := rfl
@[simp] theorem stampByte_expectStart (s : State) : (s.stampByte).expectStart = s.expectStart := rfl
@[simp] theorem stampByte_nowUs (s : State) : (s.stampByte).nowUs = s.nowUs := rfl
@[simp] theorem stampByte_nowMs (s : State) : (s.stampByte).nowMs = s.nowMs := rfl
@[simp] theorem stampByte_src (s : State) : (s.stampByte).src = s.src := rfl
@[simp] theorem stampByte_inputs (s : State) : (s.stampByte).inputs = s.inputs := rfl
@[simp] theorem stampByte_out (s : State) : (s.stampByte).out = s.out := rfl

end Sys2Proof.Machine.State
end

