-- ==== Sys2Proof/Laws/Parser.lean ====
section
/-! SUPPORT. Laws/Parser.lean: what PARSEBYTE, a transition class and RXBYTE can do: one lemma per shared operation. -/

namespace Sys2Proof.Machine

/-- The class the byte selects, when PROTO_SEL = IBUS (R67). -/
theorem classOf_ibus (s : State) (b : Byte) (h : s.protoSel = .ibus) :
    s.parseCtx.classOf b = decodeIbus s.st b := by
  simp [ParseCtx.classOf, State.parseCtx, h]

/-- The class the byte selects, when PROTO_SEL = SBUS (R68). -/
theorem classOf_sbus (s : State) (b : Byte) (h : s.protoSel = .sbus) :
    s.parseCtx.classOf b = decodeSbus s.st b := by
  simp [ParseCtx.classOf, State.parseCtx, h]

/-- A transition class runs its rule where it is selected. -/
theorem execClass_selected (c : TransClass) (b : Byte) (s : State) (ha : s.active = true)
    (hc : s.parseCtx.classOf b = c) : execClass c b s = answerOk (transition c b s.clearOut) := by
  simp [execClass, ha, hc]

/-- If a transition class answers a next state, it was selected and its rule ran. -/
theorem execClass_next (c : TransClass) (b : Byte) (s t : State) (h : execClass c b s = .next t) :
    s.active = true ∧ s.parseCtx.classOf b = c ∧
      t = { (transition c b s.clearOut).1 with
            out := { (transition c b s.clearOut).1.out with ok := (transition c b s.clearOut).2 } } := by
  unfold execClass at h
  split at h
  · rename_i hc
    have hc' : s.active = true ∧ s.parseCtx.classOf b = c := by simpa using hc
    simp only [answerOk] at h
    cases h
    exact ⟨hc'.1, hc'.2, rfl⟩
  · cases h

theorem parseByte_active (s : State) (b : Byte) (h : s.active = true) :
    parseByte b s = transition (s.parseCtx.classOf b) b s := by
  simp [parseByte, h]

theorem parseByte_inactive (s : State) (b : Byte) (h : s.active = false) : parseByte b s = (s, false) := by
  simp [parseByte, h]

/-- The frame of every transition: only the parser's registers, the FIFO and the record of events change. -/
theorem transition_frame (c : TransClass) (b : Byte) (s : State) :
    (transition c b s).1 = { s with
      st := (transition c b s).1.st, cnt := (transition c b s).1.cnt, cksum := (transition c b s).1.cksum
      ckLo := (transition c b s).1.ckLo, raw := (transition c b s).1.raw, sflags := (transition c b s).1.sflags
      work := (transition c b s).1.work, fifo := (transition c b s).1.fifo
      out := { s.out with events := (transition c b s).1.out.events } } := by
  cases c <;> try rfl
  simp only [transition, ibusCs0Ckhi]
  split <;> rfl

/-- R117: a transition that returns true puts one message; any other leaves the FIFO alone. -/
theorem transition_fifo (c : TransClass) (b : Byte) (s : State) :
    ((transition c b s).2 = false ∧ (transition c b s).1.fifo = s.fifo) ∨
    ((transition c b s).2 = true ∧ c = .ibusCs0Ckhi ∧ (transition c b s).1 = s.parserNotify.resetParser ∧
      receivedChecksum b s.ckLo = s.cksum) ∨
    ((transition c b s).2 = true ∧ c = .sbusVfOk ∧ (transition c b s).1.fifo =
      s.fifo.put ⟨unpack s.raw, errorFlagsOf s.sflags⟩) := by
  cases c
  case ibusCs0Ckhi =>
    by_cases h : receivedChecksum b s.ckLo = s.cksum
    · exact .inr (.inl (by simp [transition, ibusCs0Ckhi, h]))
    · exact .inl (by simp [transition, ibusCs0Ckhi, h])
  case sbusVfOk => exact .inr (.inr ⟨rfl, rfl, rfl⟩)
  all_goals exact .inl ⟨rfl, rfl⟩

/-- The frame of PARSEBYTE. -/
theorem parseByte_frame (b : Byte) (s : State) :
    (parseByte b s).1 = { s with
      st := (parseByte b s).1.st, cnt := (parseByte b s).1.cnt, cksum := (parseByte b s).1.cksum
      ckLo := (parseByte b s).1.ckLo, raw := (parseByte b s).1.raw, sflags := (parseByte b s).1.sflags
      work := (parseByte b s).1.work, fifo := (parseByte b s).1.fifo
      out := { s.out with events := (parseByte b s).1.out.events } } := by
  unfold parseByte
  split
  · exact transition_frame _ b s
  · rfl

/-- RXBYTE with no idle trigger feeds the byte (R172 lines 3 and 5 to 7). -/
theorem rxByte_quiet (b : Byte) (s : State) (ha : s.active = true) (he : s.expectStart = false)
    (hg : s.idleGap = false) : rxByte b s = feed b s.stampByte := by
  simp [rxByte, ha, State.idleCheck, hg, filterAndFeed, he]

/-- RXBYTE after an idle gap on the header byte: the parser is reset and the byte is fed (R172, corner case (b)). -/
theorem rxByte_gap_header (b : Byte) (s : State) (ha : s.active = true) (hg : s.idleGap = true)
    (hb : b = hdr0 s.protoSel) :
    rxByte b s = feed b { (s.resync .idleGap).stampByte with expectStart := false } := by
  simp [rxByte, ha, State.idleCheck, hg, filterAndFeed, State.stampByte, hb]

/-- RXBYTE after an idle gap on any other byte: the parser is reset and the byte is discarded (R172 line 4). -/
theorem rxByte_gap_discard (b : Byte) (s : State) (ha : s.active = true) (hg : s.idleGap = true)
    (hb : b ≠ hdr0 s.protoSel) :
    rxByte b s = ({ ((s.resync .idleGap).stampByte.raise .idleDiscard) with expectStart := false }, false) := by
  simp [rxByte, ha, State.idleCheck, hg, filterAndFeed, State.stampByte, hb, State.raise]

/-- What `feed` does beside PARSEBYTE: LAST_MSG_MS on success (R172 line 6). -/
theorem feed_eq (b : Byte) (s : State) :
    feed b s = ({ (parseByte b s).1 with
      lastMsgMs := if (parseByte b s).2 then (parseByte b s).1.nowMs else (parseByte b s).1.lastMsgMs },
      (parseByte b s).2) := by
  unfold feed
  by_cases h : (parseByte b s).2 = true <;> simp [h]

end Sys2Proof.Machine
end

