-- ==== Sys2Proof/Laws/Invariant.lean ====
section
/-! SUPPORT. Laws/Invariant.lean: the shared operations keep the invariant of the registers (Safety.lean). -/

namespace Sys2Proof.Machine

/-- The invariant reads the parser's registers, the FIFO, ACTIVE, PROTO_SEL and EXPECT_START only. -/
theorem State.Inv.congr {s t : State} (h : s.Inv) (h1 : t.fifo = s.fifo) (h2 : t.expectStart = s.expectStart)
    (h3 : t.active = s.active) (h4 : t.protoSel = s.protoSel) (h5 : t.st = s.st) (h6 : t.cnt = s.cnt)
    (h7 : t.cksum = s.cksum) (h8 : t.ckLo = s.ckLo) (h9 : t.raw = s.raw) (h10 : t.sflags = s.sflags)
    (h11 : t.work = s.work) : t.Inv := by
  simp only [State.Inv, State.IbusInv, State.SbusInv, State.ScratchReset] at *
  rw [h1, h2, h3, h4, h5, h6, h7, h8, h9, h10, h11]
  exact h

/-- RESETPARSER establishes the invariant's clauses about the parser, whatever the parser's registers held (R116). -/
theorem resetParser_inv (s : State) (hf : s.fifo.Wf) (he : s.expectStart = false)
    (ha : s.active = false → s.protoSel = .none)
    (hp : s.active = true → s.protoSel = .ibus ∨ s.protoSel = .sbus) : s.resetParser.Inv := by
  have hs : s.resetParser.ScratchReset := ⟨rfl, rfl, rfl, rfl, rfl, rfl⟩
  refine ⟨hf, he, fun h => ⟨ha h, rfl, hs⟩, hp, fun _ _ => ?_, fun _ _ => ?_⟩
  · refine ⟨rfl, rfl, rfl, fun _ => hs, ?_, ?_, ?_, ?_⟩ <;> intro h <;> cases h
  · refine ⟨rfl, rfl, rfl, fun _ => hs, ?_, ?_, ?_, ?_⟩ <;> intro h <;> cases h

/-- A state that differs from an active one in the parser's registers only meets the invariant if its active machine's
clauses hold. -/
theorem inv_of_machine {s t : State} (h : s.Inv) (ha : s.active = true) (h1 : t.fifo = s.fifo)
    (h2 : t.expectStart = s.expectStart) (h3 : t.active = s.active) (h4 : t.protoSel = s.protoSel)
    (h5 : s.protoSel = .ibus → t.IbusInv) (h6 : s.protoSel = .sbus → t.SbusInv) : t.Inv := by
  obtain ⟨hf, he, -, hp, -, -⟩ := h
  refine ⟨h1 ▸ hf, h2 ▸ he, fun h => ?_, ?_, fun _ h => h5 (h4 ▸ h), fun _ h => h6 (h4 ▸ h)⟩
  · rw [h3, ha] at h; cases h
  · rw [h3, h4]; exact hp

/-- A completing or failing transition keeps the invariant: it ends in RESETPARSER (R29). -/
theorem reset_after_inv {s : State} (h : s.Inv) (ha : s.active = true) (f : Fifo) (hf : f.Wf) (w : RCMessage)
    (o : Outputs) : ({ s with fifo := f, work := w, out := o } : State).resetParser.Inv :=
  resetParser_inv _ hf h.2.1 (by simp [ha]) h.2.2.2.1

theorem cnt_succ_toNat (c : BitVec 6) (h : c.toNat ≤ 62) : (c + 1).toNat = c.toNat + 1 := by bv_omega

/-- IBUS.H1.DATA keeps the IBus clauses: the count, the running checksum (R133) and the lanes to come. -/
theorem ibusH1Data_inv (s : State) (b : Byte) (h : s.IbusInv) (hst : s.st = .hasHeader1) :
    (ibusH1Data b s).1.IbusInv := by
  obtain ⟨i1, i2, i3, -, -, i6, -, -⟩ := h
  obtain ⟨c1, c2, c3, c4, c5⟩ := i6 hst
  obtain ⟨hsum, hclear⟩ := writeLane_sum_and_clear s.work.channels s.cnt b c1 c2 c5
  have hn := cnt_succ_toNat s.cnt (by omega)
  have hck : s.cksum - b.setWidth 16 = 0xFF9F - laneSum (writeLane s.work.channels (s.cnt + 1) b) := by
    rw [hsum, c3]; ring
  simp only [ibusH1Data, State.IbusInv, hst]
  by_cases h30 : s.cnt + 1 = 30
  · have e : s.cnt.toNat + 1 = 30 := by rw [← hn, h30]; rfl
    rw [if_pos h30]
    refine ⟨i1, i2, i3, ?_, ?_, ?_, fun _ => ⟨h30, hck, c4, e ▸ hclear⟩, ?_⟩ <;> intro h <;> cases h
  · have e : (s.cnt + 1).toNat ≠ 30 := fun h => h30 (BitVec.eq_of_toNat_eq (by rw [h]; rfl))
    rw [if_neg h30]
    refine ⟨i1, i2, i3, ?_, ?_, fun _ => ⟨by omega, by omega, hck, c4, hn ▸ hclear⟩, ?_, ?_⟩ <;> intro h <;> cases h

/-- SBUS.ACC.DATA keeps the SBUS clauses: the count and the bytes of RAW to come. -/
theorem sbusAccData_inv (s : State) (b : Byte) (h : s.SbusInv) (hst : s.st = .accumulateChannels) :
    (sbusAccData b s).1.SbusInv := by
  obtain ⟨i1, i2, i3, -, i5, -, -, -⟩ := h
  obtain ⟨c1, c2, c3, c4⟩ := i5 hst
  have hn := cnt_succ_toNat s.cnt (by omega)
  have hm : (s.cnt - 1).toNat = s.cnt.toNat - 1 := by bv_omega
  have hr : rawClearFrom (writeRaw s.raw s.cnt b) s.cnt.toNat := by
    intro j hj
    have := c3 j (by omega)
    simp only [Fin.getElem_fin, writeRaw, hm] at *
    rw [Vector.getElem_setIfInBounds, if_neg (by omega)]
    exact this
  simp only [sbusAccData, State.SbusInv, hst]
  by_cases h23 : s.cnt + 1 = 23
  · rw [if_pos h23]
    refine ⟨i1, i2, i3, ?_, ?_, fun _ => ⟨h23, c4⟩, ?_, by decide⟩ <;> intro h <;> cases h
  · have e : (s.cnt + 1).toNat ≠ 23 := fun h => h23 (BitVec.eq_of_toNat_eq (by rw [h]; rfl))
    rw [if_neg h23]
    refine ⟨i1, i2, i3, ?_, fun _ => ⟨by omega, by omega, ?_, c4⟩, ?_, ?_, by decide⟩
    · intro h; cases h
    · rw [hn]; exact hr
    all_goals intro h; cases h

/-- Every IBus transition keeps the invariant. -/
theorem ibusTransition_inv (s : State) (b : Byte) (h : s.Inv) (ha : s.active = true) (hp : s.protoSel = .ibus) :
    (transition (decodeIbus s.st b) b s).1.Inv := by
  have hi := h.2.2.2.2.1 ha hp
  have hns : s.protoSel ≠ .sbus := by simp [hp]
  have rz : ∀ e, (s.resync e).Inv := fun e => reset_after_inv h ha _ h.1 s.work _
  have machine : ∀ {t : State}, t.fifo = s.fifo → t.expectStart = s.expectStart → t.active = s.active →
      t.protoSel = s.protoSel → t.IbusInv → t.Inv :=
    fun h1 h2 h3 h4 h5 => inv_of_machine h ha h1 h2 h3 h4 (fun _ => h5) (fun e => absurd e hns)
  obtain ⟨i1, i2, i3, i4, i5, i6, i7, i8⟩ := hi
  cases hst : s.st <;> simp only [decodeIbus]
  · split
    · obtain ⟨-, c2, c3, -, -, c6⟩ := i4 hst
      refine machine rfl rfl rfl rfl ?_
      simp [transition, ibusWh0Hdr, State.IbusInv, i1, i2, c2, c3, c6, RCMessage.zero]
    · exact h.congr rfl rfl rfl rfl rfl rfl rfl rfl rfl rfl rfl
  · split
    · obtain ⟨-, c2, c3, c4⟩ := i5 hst
      refine machine rfl rfl rfl rfl ?_
      simp only [transition, ibusH0Hdr1, State.IbusInv]
      refine ⟨i1, i2, i3, ?_, ?_, fun _ => ?_, ?_, ?_⟩ <;> try (intro h; cases h)
      rw [c2, c4]
      exact ⟨by decide, by decide, by decide, c3, by decide⟩
    · exact rz _
  · exact machine rfl rfl rfl rfl (ibusH1Data_inv s b ⟨i1, i2, i3, i4, i5, i6, i7, i8⟩ hst)
  · obtain ⟨-, c2, -, c4⟩ := i7 hst
    refine machine rfl rfl rfl rfl ?_
    simp only [transition, ibusHfCklo, State.IbusInv]
    refine ⟨i1, i2, i3, ?_, ?_, ?_, ?_, fun _ => ⟨trivial, c2, c4⟩⟩ <;> intro h <;> cases h
  · simp only [transition, ibusCs0Ckhi]
    split
    · exact reset_after_inv h ha _ (Fifo.put_wf _ _ h.1) s.work s.out
    · exact rz _

/-- Every SBUS transition keeps the invariant. -/
theorem sbusTransition_inv (s : State) (b : Byte) (h : s.Inv) (ha : s.active = true) (hp : s.protoSel = .sbus) :
    (transition (decodeSbus s.st b) b s).1.Inv := by
  have hi := h.2.2.2.2.2 ha hp
  have hns : s.protoSel ≠ .ibus := by simp [hp]
  have rz : ∀ e, (s.resync e).Inv := fun e => reset_after_inv h ha _ h.1 s.work _
  have machine : ∀ {t : State}, t.fifo = s.fifo → t.expectStart = s.expectStart → t.active = s.active →
      t.protoSel = s.protoSel → t.SbusInv → t.Inv :=
    fun h1 h2 h3 h4 h5 => inv_of_machine h ha h1 h2 h3 h4 (fun e => absurd e hns) (fun _ => h5)
  obtain ⟨i1, i2, i3, i4, i5, i6, i7, i8⟩ := hi
  cases hst : s.st <;> simp only [decodeSbus]
  · split
    · obtain ⟨-, -, -, c4, c5, -⟩ := i4 hst
      refine machine rfl rfl rfl rfl ?_
      simp only [transition, sbusWhHdr, State.SbusInv]
      refine ⟨i1, i2, i3, ?_, fun _ => ⟨by decide, by decide, by rw [c4]; decide, c5⟩, ?_, ?_, by decide⟩ <;>
        intro h <;> cases h
    · exact h.congr rfl rfl rfl rfl rfl rfl rfl rfl rfl rfl rfl
  · exact machine rfl rfl rfl rfl (sbusAccData_inv s b ⟨i1, i2, i3, i4, i5, i6, i7, i8⟩ hst)
  · refine machine rfl rfl rfl rfl ?_
    simp only [transition, sbusRfFlags, State.SbusInv]
    refine ⟨i1, i2, i3, ?_, ?_, ?_, fun _ => trivial, by decide⟩ <;> intro h <;> cases h
  · split
    · exact reset_after_inv h ha _ (Fifo.put_wf _ _ h.1) _ s.out
    · exact rz _
  · exact absurd hst i8

/-- The transition a byte selects keeps the invariant. -/
theorem transition_inv (s : State) (b : Byte) (h : s.Inv) (ha : s.active = true) :
    (transition (s.parseCtx.classOf b) b s).1.Inv := by
  rcases h.2.2.2.1 ha with hp | hp
  · rw [classOf_ibus s b hp]
    exact ibusTransition_inv s b h ha hp
  · rw [classOf_sbus s b hp]
    exact sbusTransition_inv s b h ha hp

theorem parseByte_inv (s : State) (b : Byte) (h : s.Inv) : (parseByte b s).1.Inv := by
  unfold parseByte
  split
  · exact transition_inv s b h ‹_›
  · exact h

theorem feed_inv (s : State) (b : Byte) (h : s.Inv) : (feed b s).1.Inv := by
  rw [feed_eq]
  exact (parseByte_inv s b h).congr rfl rfl rfl rfl rfl rfl rfl rfl rfl rfl rfl

theorem rxByte_inv (s : State) (b : Byte) (h : s.Inv) : (rxByte b s).1.Inv := by
  cases ha : s.active
  · simpa [rxByte, ha] using h
  cases hg : s.idleGap
  · rw [rxByte_quiet b s ha h.2.1 hg]
    exact feed_inv _ _ (h.congr rfl rfl rfl rfl rfl rfl rfl rfl rfl rfl rfl)
  · have hr : ({ (s.resync .idleGap).stampByte with expectStart := false } : State).Inv :=
      (resetParser_inv s h.1 h.2.1 (by simp [ha]) h.2.2.2.1).congr rfl h.2.1.symm rfl rfl rfl rfl rfl rfl rfl rfl rfl
    by_cases hb : b = hdr0 s.protoSel
    · rw [rxByte_gap_header b s ha hg hb]
      exact feed_inv _ _ hr
    · rw [rxByte_gap_discard b s ha hg hb]
      exact hr.congr rfl rfl rfl rfl rfl rfl rfl rfl rfl rfl rfl

theorem drain_inv (xs : List SrcByte) (s : State) (h : s.Inv) : (drain xs s).Inv := by
  induction xs generalizing s with
  | nil => exact h
  | cons x xs ih => exact ih _ (rxByte_inv _ _ (h.congr rfl rfl rfl rfl rfl rfl rfl rfl rfl rfl rfl))

end Sys2Proof.Machine
end

