-- ==== Sys2Proof/Laws/PerInstr.lean ====
section
/-! SUPPORT. Laws/PerInstr.lean: for every instruction, its word is a legal port word (R72, R73): at least the five
bits of a code and, for an operation, exactly its format's width. -/

namespace Sys2Proof.Laws

open Sys2Proof.Machine

/-- The word the encoder gives `i` is a legal port word. -/
def LegalEncoding.Statement (i : Instr) : Prop := legalWord (encode i) = true

/-- The code of a command word is its top five bits (R73). -/
theorem code_of_append {n : Nat} (c : BitVec 5) (x : BitVec n) :
    (c ++ x : BitVec (5 + n)).extractLsb' (5 + n - 5) 5 = c := by
  ext i hi
  simp [BitVec.getLsbD_append, hi]

/-- A command word with a known code and its format's width is legal. -/
theorem legalWord_of_code {n : Nat} (c : BitVec 5) (x : BitVec n) (f : Format) (i : Instr)
    (h : commandRow c.toNat (c ++ x : BitVec (5 + n)) = some (f, i)) (hf : f.width = 5 + n) :
    legalWord (.command (5 + n) (c ++ x)) = true := by
  simp only [legalWord, code_of_append, h, hf]
  simp

theorem LegalEncoding.begin (cfg : SerialConfig) : LegalEncoding.Statement (.begin cfg) :=
  legalWord_of_code 0x01#5 cfg.toBits .cc _ rfl rfl
theorem LegalEncoding.update : LegalEncoding.Statement .update := by unfold LegalEncoding.Statement; decide
theorem LegalEncoding.rxbyte (b : Byte) : LegalEncoding.Statement (.rxbyte b) :=
  legalWord_of_code 0x03#5 b .cb _ rfl rfl
theorem LegalEncoding.available : LegalEncoding.Statement .available := by unfold LegalEncoding.Statement; decide
theorem LegalEncoding.getmessage : LegalEncoding.Statement .getmessage := by unfold LegalEncoding.Statement; decide
theorem LegalEncoding.timeout (t : Word) : LegalEncoding.Statement (.timeout t) :=
  legalWord_of_code 0x06#5 t .ct _ rfl rfl
theorem LegalEncoding.tslm : LegalEncoding.Statement .tslm := by unfold LegalEncoding.Statement; decide
theorem LegalEncoding.parsebyte (b : Byte) : LegalEncoding.Statement (.parsebyte b) :=
  legalWord_of_code 0x10#5 b .cb _ rfl rfl
theorem LegalEncoding.resetparser : LegalEncoding.Statement .resetparser := by unfold LegalEncoding.Statement; decide
theorem LegalEncoding.listener : LegalEncoding.Statement .listener := by unfold LegalEncoding.Statement; decide
theorem LegalEncoding.getmsgfifo : LegalEncoding.Statement .getmsgfifo := by unfold LegalEncoding.Statement; decide
theorem LegalEncoding.parsernotify : LegalEncoding.Statement .parsernotify := by
  unfold LegalEncoding.Statement; decide
theorem LegalEncoding.rbPut (m : RCMessage) : LegalEncoding.Statement (.rbPut m) :=
  legalWord_of_code 0x18#5 m.toBits .cm _ rfl rfl
theorem LegalEncoding.rbGet : LegalEncoding.Statement .rbGet := by unfold LegalEncoding.Statement; decide
theorem LegalEncoding.rbIsempty : LegalEncoding.Statement .rbIsempty := by unfold LegalEncoding.Statement; decide
theorem LegalEncoding.rbIsfull : LegalEncoding.Statement .rbIsfull := by unfold LegalEncoding.Statement; decide
theorem LegalEncoding.rbCount : LegalEncoding.Statement .rbCount := by unfold LegalEncoding.Statement; decide
theorem LegalEncoding.rbClear : LegalEncoding.Statement .rbClear := by unfold LegalEncoding.Statement; decide
theorem LegalEncoding.ibusWh0Hdr : LegalEncoding.Statement .ibusWh0Hdr := rfl
theorem LegalEncoding.ibusWh0Skip (b : Byte) : LegalEncoding.Statement (.ibusWh0Skip b) := rfl
theorem LegalEncoding.ibusH0Hdr1 : LegalEncoding.Statement .ibusH0Hdr1 := rfl
theorem LegalEncoding.ibusH0Resync (b : Byte) : LegalEncoding.Statement (.ibusH0Resync b) := rfl
theorem LegalEncoding.ibusH1Data (b : Byte) : LegalEncoding.Statement (.ibusH1Data b) := rfl
theorem LegalEncoding.ibusHfCklo (b : Byte) : LegalEncoding.Statement (.ibusHfCklo b) := rfl
theorem LegalEncoding.ibusCs0Ckhi (b : Byte) : LegalEncoding.Statement (.ibusCs0Ckhi b) := rfl
theorem LegalEncoding.sbusWhHdr : LegalEncoding.Statement .sbusWhHdr := rfl
theorem LegalEncoding.sbusWhSkip (b : Byte) : LegalEncoding.Statement (.sbusWhSkip b) := rfl
theorem LegalEncoding.sbusAccData (b : Byte) : LegalEncoding.Statement (.sbusAccData b) := rfl
theorem LegalEncoding.sbusRfFlags (b : Byte) : LegalEncoding.Statement (.sbusRfFlags b) := rfl
theorem LegalEncoding.sbusVfOk : LegalEncoding.Statement .sbusVfOk := rfl
theorem LegalEncoding.sbusVfBad (b : Byte) : LegalEncoding.Statement (.sbusVfBad b) := rfl

end Sys2Proof.Laws
end

