-- ==== Sys2Proof/Laws/Step.lean ====
section
/-! SUPPORT. Laws/Step.lean: when a clock holds two writers of the FIFO, and what a step does in each case. -/

namespace Sys2Proof.Machine

/-- A clock with one port empty never holds two writers. -/
theorem twoFifoWriters_caller (s : State) (arr : List SrcByte) (r : Request) (rest : List Clock)
    (h : s.inputs = ⟨arr, some r, none⟩ :: rest) : s.twoFifoWriters = false := by
  simp [State.twoFifoWriters, h]

theorem twoFifoWriters_byteSide (s : State) (arr : List SrcByte) (p : Option Request) (rest : List Clock)
    (h : s.inputs = ⟨arr, none, p⟩ :: rest) : s.twoFifoWriters = false := by
  cases p <;> simp [State.twoFifoWriters, h]

theorem twoFifoWriters_nil (s : State) (h : s.inputs = []) : s.twoFifoWriters = false := by
  simp [State.twoFifoWriters, h]

/-- A clock with both ports full holds two writers exactly when each request writes the FIFO. -/
theorem twoFifoWriters_both (s : State) (arr : List SrcByte) (r p : Request) (rest : List Clock)
    (h : s.inputs = ⟨arr, some r, some p⟩ :: rest) :
    s.twoFifoWriters =
      (r.writesFifo { s with src := s.src ++ arr } && p.writesFifo { s with src := s.src ++ arr }) := by
  simp [State.twoFifoWriters, h]

/-- The three ways a step goes with N >= 1: refused for two writers, idle, or the word of the fetched request. -/
theorem step_cases (s : State) (h : 0 < s.fifo.depth) :
    (s.twoFifoWriters = true ∧ step s = .refused .twoFifoWriters) ∨
    (s.twoFifoWriters = false ∧ s.fetch.1 = none ∧ step s = .next s.fetch.2.clearOut) ∨
    (∃ r, s.twoFifoWriters = false ∧ s.fetch.1 = some r ∧
      ((∃ i, decode s.fetch.2.parseCtx r.word = .ok i ∧ step s = exec i (s.fetch.2.atTime r.nowUs r.nowMs)) ∨
       (∃ why, decode s.fetch.2.parseCtx r.word = .error why ∧
         step s = answerReject why (s.fetch.2.atTime r.nowUs r.nowMs)))) := by
  have hd : s.fifo.depth ≠ 0 := Nat.ne_of_gt h
  cases hw : s.twoFifoWriters
  · rcases hf : s.fetch with ⟨f, t⟩
    cases f with
    | none => exact .inr (.inl ⟨rfl, rfl, by simp [step, hd, hw, hf, answerNone]⟩)
    | some r =>
      refine .inr (.inr ⟨r, rfl, rfl, ?_⟩)
      cases hdec : decode t.parseCtx r.word with
      | ok i => exact .inl ⟨i, rfl, by simp [step, hd, hw, hf, hdec]⟩
      | error why => exact .inr ⟨why, rfl, by simp [step, hd, hw, hf, hdec]⟩
  · exact .inl ⟨rfl, by simp [step, hd, hw]⟩

/-- RXBYTE and PARSEBYTE write the FIFO exactly when they answer true (R117). -/
theorem writesFifo_rxbyte (b : Byte) (s : State) : writesFifo (.rxbyte b) s = (rxByte b s).2 := rfl

theorem writesFifo_parsebyte (b : Byte) (s : State) : writesFifo (.parsebyte b) s = (parseByte b s).2 := rfl

end Sys2Proof.Machine
end

