-- ==== Sys2Proof/Tests/Slice0.lean ====
section
/-! SUPPORT. Tests/Slice0.lean: the model's own tests, expected values from 95_test_vectors.md (vector names V, D in the
comments) and from the tables of 30_encoding.md; then a witness for the hypotheses of each statement. -/

open Sys2Proof Sys2Proof.Machine

namespace Sys2Proof.Tests

/-! ### States and messages -/

/-- An active framer, N = 4, parser in its initial state, empty queue. -/
def ready (p : Proto) : State := { State.reset with active := true, protoSel := p }

/-- An active IBus framer with the parser mid-frame. -/
def ibusAt (st : Tag) (cnt : BitVec 6) (cksum : Half) (ckLo : Byte) (work : RCMessage) : State :=
  { ready .ibus with st := st, cnt := cnt, cksum := cksum, ckLo := ckLo, work := work }

/-- An active SBUS framer with the parser mid-frame. -/
def sbusAt (st : Tag) (cnt : BitVec 6) (raw : Vector Byte 22) (sflags : Byte) : State :=
  { ready .sbus with st := st, cnt := cnt, raw := raw, sflags := sflags }

/-- The message of V1. -/
def msgV1 : RCMessage :=
  { channels := #v[0x05DB, 0x05DC, 0x0554, 0x05DC, 0x03E8, 0x07D0, 0x05D2, 0x03E8,
      0x05DC, 0x05DC, 0x05DC, 0x05DC, 0x05DC, 0x05DC, 0, 0]
    errorFlags := 0 }

/-- A message that differs from others in channel 0. -/
def msg (n : Half) : RCMessage := { RCMessage.zero with channels := RCMessage.zero.channels.set 0 n }

/-- V1's parser before its last byte (offset 31). -/
def v1Last : State := ibusAt .hasCheckSum0 31 0xF3DA 0xDA msgV1

/-- The payload of frame A (section 2.4). -/
def rawA : Vector Byte 22 :=
  #v[0x00, 0x28, 0x83, 0x32, 0x5E, 0x42, 0x99, 0xFC, 0x78, 0x69, 0x58,
     0x28, 0x6B, 0x9C, 0xFC, 0xAE, 0xC8, 0xCB, 0x90, 0x1A, 0x76, 0xBD]

/-- Frame A's parser before its footer. -/
def aLast : State := sbusAt .validateFooter 24 rawA 0x0C

/-- V4 after step 4: the queue m1 to m4, full, WR = RD = 0. -/
def full : State := { ready .ibus with fifo := { mem := [msg 1, msg 2, msg 3, msg 4], wr := 0, rd := 0, count := 4 } }

/-- The configuration of program P1. -/
def cfg (p : Proto) : SerialConfig := { srcPresent := true, protocol := p }

/-- The word `w` on the caller's port, or on the byte side's. -/
def request (w : PortWord) : Request := { word := w, nowUs := 10, nowMs := 20 }

/-- Bytes one after the other in the byte source, all at one time. -/
def buffered (bs : List Byte) : List SrcByte := bs.map fun b => { byte := b, nowUs := 7, nowMs := 9 }

/-! ### Well-formedness: each check refuses its ill-formed term -/

theorem test_wf_ibusWh0Skip : Instr.wellFormed (.ibusWh0Skip 0x20) = false := by decide
theorem test_wf_ibusH0Resync : Instr.wellFormed (.ibusH0Resync 0x40) = false := by decide
theorem test_wf_sbusWhSkip : Instr.wellFormed (.sbusWhSkip 0x0F) = false := by decide
theorem test_wf_sbusVfBad : Instr.wellFormed (.sbusVfBad 0x00) = false := by decide

/-! ### Decoding: words from D-E1, D-E2, D-E4 and the tables R72, R73, R67, R68 -/

/-- No parser. -/
def idle : ParseCtx := ⟨false, .none, .initial⟩

/-- D-E2; the top byte is 00001, src_present 1, protocol 01. -/
theorem test_decode_begin :
    decode idle (.command 104 0x0D0001C200000003E80000012C#104) = .ok (.begin ⟨true, .ibus, 115200, 1000, 300⟩) ∧
    decode idle (.command 104 0x090001C200000003E800000000#104) = .ok (.begin ⟨false, .ibus, 115200, 1000, 0⟩) ∧
    decode idle (.command 104 0x0C0001C200000003E800000000#104) = .ok (.begin ⟨true, .none, 115200, 1000, 0⟩) := by
  decide
theorem test_decode_begin_sbus :
    decode idle (.command 104 0x0E0001C200000003E800000000#104) = .ok (.begin ⟨true, .sbus, 115200, 1000, 0⟩) := by
  decide
theorem test_decode_update : decode idle (.command 5 0b00010#5) = .ok .update := by decide
/-- D-E1, and the word of RX 20 bit by bit: code 00011, byte 00100000. -/
theorem test_decode_rxbyte : decode idle (.command 13 0b0001100100000#13) = .ok (.rxbyte 0x20) := by decide
/-- R172: "on pins, one strobe of the byte input", with and without a parser. -/
theorem test_decode_rxbyte_strobe : decode idle (.strobe 0x20) = .ok (.rxbyte 0x20) ∧
    decode ⟨true, .ibus, .hasHeader0⟩ (.strobe 0x40) = .ok (.rxbyte 0x40) := by decide
theorem test_decode_available : decode idle (.command 5 0b00100#5) = .ok .available := by decide
theorem test_decode_getmessage : decode idle (.command 5 0b00101#5) = .ok .getmessage := by decide
theorem test_decode_timeout : decode idle (.command 37 0x06000003E8#37) = .ok (.timeout 1000) := by decide
theorem test_decode_tslm : decode idle (.command 5 0b00111#5) = .ok .tslm := by decide
theorem test_decode_parsebyte : decode idle (.command 13 0b1000000001111#13) = .ok (.parsebyte 0x0F) := by decide
theorem test_decode_resetparser : decode idle (.command 5 0b10001#5) = .ok .resetparser := by decide
theorem test_decode_listener : decode idle (.command 5 0b10010#5) = .ok .listener := by decide
theorem test_decode_getmsgfifo : decode idle (.command 5 0b10011#5) = .ok .getmsgfifo := by decide
theorem test_decode_parsernotify : decode idle (.command 5 0b10100#5) = .ok .parsernotify := by decide
set_option exponentiation.threshold 300 in
/-- D-E4 (V1's message by R74), after the code 11000. -/
theorem test_decode_rbPut : decode idle (.command 269
    0x18000000000005DC05DC05DC05DC05DC05DC03E805D207D003E805DC055405DC05DB#269) = .ok (.rbPut msgV1) := by decide
theorem test_decode_rbGet : decode idle (.command 5 0b11001#5) = .ok .rbGet := by decide
theorem test_decode_rbIsempty : decode idle (.command 5 0b11010#5) = .ok .rbIsempty := by decide
theorem test_decode_rbIsfull : decode idle (.command 5 0b11011#5) = .ok .rbIsfull := by decide
theorem test_decode_rbCount : decode idle (.command 5 0b11100#5) = .ok .rbCount := by decide
theorem test_decode_rbClear : decode idle (.command 5 0b11101#5) = .ok .rbClear := by decide
/-- D-E3: reserved codes are named. -/
theorem test_decode_reserved : decode idle (.command 5 0x15#5) = .error (.reservedCode 0x15) ∧
    decode idle (.command 13 0x00FF#13) = .error (.reservedCode 0) ∧
    decode idle (.command 13 0x0400#13) = .error (.wrongWidth 0x04 13) ∧
    decode idle (.parserByte 0x20) = .error (.noParser 0x20) := by decide

theorem test_decode_ibusWh0Hdr :
    decode ⟨true, .ibus, .waitingForHeader0⟩ (.parserByte 0b00100000) = .ok .ibusWh0Hdr := by decide
theorem test_decode_ibusWh0Skip :
    decode ⟨true, .ibus, .waitingForHeader0⟩ (.parserByte 0x40) = .ok (.ibusWh0Skip 0x40) := by decide
theorem test_decode_ibusH0Hdr1 :
    decode ⟨true, .ibus, .hasHeader0⟩ (.parserByte 0b01000000) = .ok .ibusH0Hdr1 := by decide
theorem test_decode_ibusH0Resync :
    decode ⟨true, .ibus, .hasHeader0⟩ (.parserByte 0x20) = .ok (.ibusH0Resync 0x20) := by decide
theorem test_decode_ibusH1Data :
    decode ⟨true, .ibus, .hasHeader1⟩ (.parserByte 0x20) = .ok (.ibusH1Data 0x20) := by decide
theorem test_decode_ibusHfCklo :
    decode ⟨true, .ibus, .hasFrame⟩ (.parserByte 0xDA) = .ok (.ibusHfCklo 0xDA) := by decide
theorem test_decode_ibusCs0Ckhi :
    decode ⟨true, .ibus, .hasCheckSum0⟩ (.parserByte 0xF3) = .ok (.ibusCs0Ckhi 0xF3) := by decide
theorem test_decode_sbusWhHdr :
    decode ⟨true, .sbus, .waitingForHeader⟩ (.parserByte 0b00001111) = .ok .sbusWhHdr := by decide
theorem test_decode_sbusWhSkip :
    decode ⟨true, .sbus, .waitingForHeader⟩ (.parserByte 0xF0) = .ok (.sbusWhSkip 0xF0) := by decide
theorem test_decode_sbusAccData :
    decode ⟨true, .sbus, .accumulateChannels⟩ (.parserByte 0x0F) = .ok (.sbusAccData 0x0F) := by decide
theorem test_decode_sbusRfFlags :
    decode ⟨true, .sbus, .readFlags⟩ (.parserByte 0x0C) = .ok (.sbusRfFlags 0x0C) := by decide
theorem test_decode_sbusVfOk :
    decode ⟨true, .sbus, .validateFooter⟩ (.parserByte 0x00) = .ok .sbusVfOk := by decide
theorem test_decode_sbusVfBad :
    decode ⟨true, .sbus, .validateFooter⟩ (.parserByte 0x0F) = .ok (.sbusVfBad 0x0F) := by decide

/-! ### One step of each instruction -/

/-- D-X3. -/
theorem test_begin :
    let t := after (.begin (cfg .sbus)) { State.reset with nowUs := 777, nowMs := 12 }
    t.out.ok = true ∧ t.active = true ∧ t.protoSel = .sbus ∧ t.lastByteUs = 777 ∧ t.lastMsgMs = 12 ∧
      t.out.srcBegin = some 115200 := by decide
/-- D-X1, D-X4: a failed BEGIN leaves the framer as it was. -/
theorem test_begin_fails :
    let t := after (.begin ⟨false, .ibus, 9600, 1, 2⟩) full
    t.out.ok = false ∧ t.fifo = full.fifo ∧ t.active = true ∧ t.baud = 115200 ∧ t.out.srcBegin = none := by decide
/-- D-X2: UPDATE consumes nothing while inactive. -/
theorem test_update_inactive :
    (after .update { State.reset with src := buffered [0x20, 0x40] }).src.length = 2 := by decide
/-- V1, offsets 0 to 2, through UPDATE. -/
theorem test_update :
    let t := after .update { ready .ibus with src := buffered [0x20, 0x40, 0xDB] }
    t.src = [] ∧ t.cksum = 0xFEC4 ∧ t.cnt = 3 ∧ t.lastByteUs = 7 ∧ t.lastMsgMs = 0 := by decide
/-- D-X6: a gap of exactly IDLE_US, then one more. -/
theorem test_rxbyte_threshold :
    let s := { ibusAt .hasHeader1 10 0xFCA4 0 (msg 0x05DB) with idleUs := 300, lastByteUs := 1000 }
    (after (.rxbyte 0x55) { s with nowUs := 1300 }).cnt = 11 ∧
    (after (.rxbyte 0x55) { s with nowUs := 1301 }).st = .waitingForHeader0 ∧
    (after (.rxbyte 0x55) { s with nowUs := 1301 }).out.events = [.idleGap, .idleDiscard] := by decide
/-- V6, V1: a header after a gap starts a frame; the last byte of V1 stamps LAST_MSG_MS. -/
theorem test_rxbyte_accepts :
    (after (.rxbyte 0x20) { ready .ibus with idleUs := 300, lastByteUs := 1000, nowUs := 1400 }).st = .hasHeader0 ∧
    (after (.rxbyte 0xF3) { v1Last with nowMs := 4 }).lastMsgMs = 4 := by decide
theorem test_available : (after .available full).out.ok = true ∧ (after .available State.reset).out.ok = false := by
  decide
/-- D-X2, V4. -/
theorem test_getmessage :
    (after .getmessage full).out.msg = msg 1 ∧ (after .getmessage { full with active := false }).out.ok = false ∧
    (after .getmessage full).fifo.rd = 1 ∧ (after .getmessage full).fifo.count = 3 := by decide
/-- V7, D-X2. -/
theorem test_timeout :
    (after (.timeout 1000) { State.reset with nowMs := 1234 }).out.ok = true ∧
    (after (.timeout 1000) { State.reset with nowMs := 1000 }).out.ok = false := by decide
/-- D-X9: the time base wraps. -/
theorem test_tslm :
    (after .tslm { State.reset with lastMsgMs := 0xFFFFFF00, nowMs := 0x100 }).out.val = 512 := by decide
/-- D-P1, and V1's last byte. -/
theorem test_parsebyte :
    (after (.parsebyte 0x20) State.reset).st = .initial ∧ (after (.parsebyte 0xF3) v1Last).out.ok = true := by decide
/-- D-P2, D-P6. -/
theorem test_resetparser :
    let t := after .resetparser { v1Last with fifo := full.fifo }
    t.cksum = 0xFFFF ∧ t.cnt = 0 ∧ t.work = RCMessage.zero ∧ t.fifo = full.fifo := by decide
/-- D-P3. -/
theorem test_listener : (after .listener full).out.ok = true ∧ (after .listener State.reset).out.ok = false := by
  decide
/-- D-P4: it does not depend on ACTIVE. -/
theorem test_getmsgfifo : (after .getmsgfifo { full with active := false }).out.msg = msg 1 := by decide
/-- D-P5. -/
theorem test_parsernotify : (after .parsernotify v1Last).fifo.live = [msgV1] ∧
    (after .parsernotify v1Last).work = msgV1 := by decide
/-- V4 step 5, D-R1 (N = 1). -/
theorem test_rbPut :
    (after (.rbPut (msg 5)) full).fifo.live = [msg 2, msg 3, msg 4, msg 5] ∧
    (after (.rbPut (msg 5)) full).fifo.wr = 1 ∧ (after (.rbPut (msg 5)) full).fifo.rd = 1 ∧
    (afterAll [.rbPut (msg 1), .rbPut (msg 2)] (State.powerOn 1)).fifo.live = [msg 2] := by decide
/-- D-R3. -/
theorem test_rbGet_empty :
    (after .rbGet State.reset).out.ok = false ∧ (after .rbGet State.reset).fifo = State.reset.fifo := by decide
theorem test_rbGet : (after .rbGet full).out.ok = true ∧ (after .rbGet full).out.msg = msg 1 := by decide
theorem test_rbIsempty : (after .rbIsempty full).out.ok = false ∧ (after .rbIsempty State.reset).out.ok = true := by
  decide
theorem test_rbIsfull : (after .rbIsfull full).out.ok = true ∧ (after .rbIsfull (after .rbGet full)).out.ok = false := by
  decide
theorem test_rbCount : (after .rbCount full).out.val = 4 := by decide
/-- D-R4: MEM keeps its content. -/
theorem test_rbClear : (after .rbClear full).fifo.count = 0 ∧ (after .rbClear full).fifo.mem = full.fifo.mem := by
  decide
/-- V1 offset 0. -/
theorem test_ibusWh0Hdr :
    (after .ibusWh0Hdr (ready .ibus)).cksum = 0xFFDF ∧ (after .ibusWh0Hdr (ready .ibus)).cnt = 1 := by decide
/-- D-I5. -/
theorem test_ibusWh0Skip :
    let t := after (.ibusWh0Skip 0x21) (ready .ibus)
    t.st = .initial ∧ t.cksum = 0xFFFF ∧ t.out.events = [.skippedByte] := by decide
/-- V1 offset 1. -/
theorem test_ibusH0Hdr1 :
    let t := after .ibusH0Hdr1 (ibusAt .hasHeader0 1 0xFFDF 0 RCMessage.zero)
    t.cksum = 0xFF9F ∧ t.cnt = 2 ∧ t.st = .hasHeader1 := by decide
/-- D-I6. -/
theorem test_ibusH0Resync :
    let t := after (.ibusH0Resync 0x41) (ibusAt .hasHeader0 1 0xFFDF 0 RCMessage.zero)
    t.cksum = 0xFFFF ∧ t.cnt = 0 ∧ t.st = .waitingForHeader0 := by decide
/-- V1 offsets 2 and 3: the low byte, then the high byte, of channel 0. -/
theorem test_ibusH1Data_lanes :
    let t := after (.ibusH1Data 0xDB) (ibusAt .hasHeader1 2 0xFF9F 0 RCMessage.zero)
    t.work.channels[0] = 0x00DB ∧ t.cksum = 0xFEC4 ∧ t.cnt = 3 ∧
    (after (.ibusH1Data 0x05) t).work.channels[0] = 0x05DB ∧ (after (.ibusH1Data 0x05) t).cksum = 0xFEBF := by decide
/-- V1 offset 29. -/
theorem test_ibusH1Data_last :
    let t := after (.ibusH1Data 0x05)
      (ibusAt .hasHeader1 29 0xF3DF 0 { msgV1 with channels := msgV1.channels.set 13 0x00DC })
    t.work = msgV1 ∧ t.cksum = 0xF3DA ∧ t.cnt = 30 ∧ t.st = .hasFrame := by decide
/-- V1 offset 30. -/
theorem test_ibusHfCklo :
    let t := after (.ibusHfCklo 0xDA) (ibusAt .hasFrame 30 0xF3DA 0 msgV1)
    t.ckLo = 0xDA ∧ t.cksum = 0xF3DA ∧ t.cnt = 31 ∧ t.st = .hasCheckSum0 := by decide
/-- V1 offset 31. -/
theorem test_ibusCs0Ckhi :
    let t := after (.ibusCs0Ckhi 0xF3) v1Last
    t.out.ok = true ∧ t.fifo.live = [msgV1] ∧ t.cksum = 0xFFFF ∧ t.work = RCMessage.zero := by decide
/-- V3, second case. -/
theorem test_ibusCs0Ckhi_mismatch :
    let t := after (.ibusCs0Ckhi 0xF2) v1Last
    t.out.ok = false ∧ t.fifo.count = 0 ∧ t.out.events = [.checksumMismatch] ∧ t.st = .initial := by decide
/-- D-S1 offset 0. -/
theorem test_sbusWhHdr :
    (after .sbusWhHdr (ready .sbus)).cnt = 1 ∧ (after .sbusWhHdr (ready .sbus)).st = .accumulateChannels := by decide
/-- D-S9. -/
theorem test_sbusWhSkip :
    (after (.sbusWhSkip 0x20) (ready .sbus)).st = .initial ∧ (after (.sbusWhSkip 0x20) (ready .sbus)).cnt = 0 := by
  decide
/-- D-S1 offset 2. -/
theorem test_sbusAccData :
    let t := after (.sbusAccData 0x28) (sbusAt .accumulateChannels 2 rawZero 0)
    t.raw[1] = 0x28 ∧ t.raw[0] = 0 ∧ t.cnt = 3 ∧ t.st = .accumulateChannels := by decide
/-- D-S1 offset 22. -/
theorem test_sbusAccData_last :
    let t := after (.sbusAccData 0xBD) (sbusAt .accumulateChannels 22 (rawA.set 21 0) 0)
    t.raw = rawA ∧ t.cnt = 23 ∧ t.st = .readFlags := by decide
/-- D-S1 offset 23. -/
theorem test_sbusRfFlags :
    let t := after (.sbusRfFlags 0x0C) (sbusAt .readFlags 23 rawA 0)
    t.sflags = 0x0C ∧ t.cnt = 24 ∧ t.st = .validateFooter := by decide
/-- D-S1 offset 24. -/
theorem test_sbusVfOk :
    let t := after .sbusVfOk aLast
    t.out.ok = true ∧ t.raw = rawZero ∧ t.fifo.live = [{
      channels := #v[0, 101, 202, 303, 404, 505, 606, 707, 808, 909, 1010, 1111, 1212, 1313, 1414, 1515]
      errorFlags := 3 }] := by decide
/-- D-S7. -/
theorem test_sbusVfOk_flags :
    (after .sbusVfOk { aLast with sflags := 0x04 }).fifo.live.map RCMessage.errorFlags = [1] ∧
    (after .sbusVfOk { aLast with sflags := 0xF0 }).fifo.live.map RCMessage.errorFlags = [0] := by decide
/-- D-S10. -/
theorem test_sbusVfBad :
    let t := after (.sbusVfBad 0x0F) aLast
    t.out.ok = false ∧ t.st = .initial ∧ t.cnt = 0 ∧ t.fifo.count = 0 ∧ t.out.events = [.badFooter] := by decide

/-! ### Witnesses: for each statement with hypotheses, a state and operands that meet them, for each clause -/

theorem witness_DecodeEncodeRoundTrip :
    Instr.wellFormed (.sbusVfBad 0x04) = true ∧
    Instr.admittedIn (.sbusVfBad 0x04) ⟨true, .sbus, .validateFooter⟩ = true ∧
    Instr.wellFormed (.timeout 0xFFFFFFFF) = true ∧ Instr.admittedIn (.timeout 0xFFFFFFFF) idle = true := by decide

theorem witness_DecodedWordIsItsEncoding : decode idle (.command 37 0x06000003E8#37) = .ok (.timeout 1000) := by decide

/-- The three clauses: the caller's port, the byte side's, both (a read and a byte: not two writers). -/
theorem witness_StepRunsDecodedInstruction :
    let r := request (.command 5 0x19#5)
    let p := request (.command 13 0x03FF#13)
    let s : State := { full with inputs := [⟨buffered [0xFF], some r, none⟩] }
    let s' : State := { full with inputs := [⟨[], none, some r⟩] }
    let s'' : State := { full with inputs := [⟨[], some r, some p⟩] }
    0 < s.fifo.depth ∧ decode ⟨s.active, s.protoSel, s.st⟩ r.word = .ok .rbGet ∧
    s.inputs = ⟨buffered [0xFF], some r, none⟩ :: [] ∧ s'.inputs = ⟨[], none, some r⟩ :: [] ∧
    s''.inputs = ⟨[], some r, some p⟩ :: [] ∧ s''.twoFifoWriters = false := by decide

theorem witness_StepWithoutRequestIsIdle :
    0 < State.reset.fifo.depth ∧ State.reset.inputs = [] ∧
    ({ full with inputs := [⟨buffered [1], none, none⟩] } : State).inputs = ⟨buffered [1], none, none⟩ :: [] := by decide

/-- A reserved code on either port and on both, at both ends of the list of codes, with an arrival; a byte handed to no
parser; an instance with N = 0; two puts at one clock. -/
theorem witness_WordsAndInstancesWithoutMeaning :
    let r := request (.command 5 0x00#5)
    let q := request (.command 13 0x1FFF#13)
    let b := request (.parserByte 0x20)
    let p := request (encode .rbGet)
    let s1 : State := { full with inputs := [⟨buffered [1], some r, none⟩] }
    let s2 : State := { full with inputs := [⟨buffered [1], none, some q⟩] }
    let s3 : State := { full with inputs := [⟨[], some r, some p⟩] }
    let s4 : State := { State.reset with inputs := [⟨buffered [1], none, some b⟩] }
    let s5 : State := { full with inputs := [⟨[], some ⟨encode (.rbPut (msg 5)), 1, 2⟩, some ⟨encode (.rbPut (msg 6)), 3, 4⟩⟩] }
    0 < full.fifo.depth ∧ s1.inputs = ⟨buffered [1], some r, none⟩ :: [] ∧
    s2.inputs = ⟨buffered [1], none, some q⟩ :: [] ∧
    (s3.inputs = ⟨[], some r, some p⟩ :: [] ∧ [⟨[], none, some p⟩] = (⟨[], none, some p⟩ : Clock) :: []) ∧
    (0x00#5 : BitVec 5).extractLsb' (5 - 5) 5 = 0x00 ∧ (0x1FFF#13 : BitVec 13).extractLsb' (13 - 5) 5 = 0x1F ∧
    0 < s4.fifo.depth ∧ s4.active = false ∧ s4.inputs = ⟨buffered [1], none, some b⟩ :: [] ∧ b.word = .parserByte 0x20 ∧
    (State.powerOn 0).fifo.depth = 0 ∧
    s5.inputs = ⟨[], some ⟨encode (.rbPut (msg 5)), 1, 2⟩, some ⟨encode (.rbPut (msg 6)), 3, 4⟩⟩ :: [] := by
  refine ⟨by decide, rfl, rfl, ⟨rfl, rfl⟩, by decide, by decide, by decide, rfl, rfl, rfl, rfl, rfl⟩

/-- A full queue and an empty one. -/
theorem witness_SameClockGetBeforePut :
    let inputs : List Clock := [⟨[], some ⟨.command 5 0x19#5, 1, 2⟩, some ⟨encode (.rbPut (msg 5)), 3, 4⟩⟩]
    let s : State := { full with inputs := inputs }
    let e : State := { State.reset with inputs := inputs }
    s.fifo.Wf ∧ s.inputs = ⟨[], some ⟨.command 5 0x19#5, 1, 2⟩, some ⟨encode (.rbPut (msg 5)), 3, 4⟩⟩ :: [] ∧
    e.fifo.Wf ∧ e.fifo.live = [] ∧
    e.inputs = ⟨[], some ⟨.command 5 0x19#5, 1, 2⟩, some ⟨encode (.rbPut (msg 5)), 3, 4⟩⟩ :: [] :=
  ⟨by decide, rfl, by decide, by decide, rfl⟩

/-- U17: two messages put at one clock (V1's last byte from the byte input, PARSERNOTIFY from the caller) are two writers;
a BEGIN beside a byte that completes nothing, and a read beside a write, are not. -/
theorem test_twoFifoWriters :
    let put := request (encode .parsernotify)
    State.twoFifoWriters { v1Last with inputs := [⟨[], some put, some (request (.strobe 0xF3))⟩] } = true ∧
    State.twoFifoWriters { v1Last with inputs := [⟨[], some put, some (request (.strobe 0xF2))⟩] } = false ∧
    State.twoFifoWriters { v1Last with inputs := [⟨[], some (request (.command 5 0x19#5)), some put⟩] } = false ∧
    State.twoFifoWriters { v1Last with
      inputs := [⟨[], some (request (encode (.begin (cfg .ibus)))), some (request (.strobe 0xF3))⟩] } = true := by decide

/-- With one writer and with two. -/
theorem witness_StepAlwaysAnswersNext :
    let s : State := { full with inputs := [⟨[], some (request (.command 5 0x1F#5)), some (request (.strobe 0x20))⟩] }
    let t : State := { full with inputs := [⟨[], some (request (.command 5 0x14#5)), some (request (.command 5 0x1D#5))⟩] }
    0 < s.fifo.depth ∧ s.InputsLegal ∧ s.twoFifoWriters = false ∧
    0 < t.fifo.depth ∧ t.InputsLegal ∧ t.twoFifoWriters = true := by decide

theorem witness_PowerOnMeetsInvariant : 0 < 1 := by decide

set_option synthInstance.maxSize 1000 in
set_option synthInstance.maxHeartbeats 200000 in
/-- A frame in flight in each protocol, and the inactive framer. -/
theorem witness_StepKeepsInvariant :
    let s : State := { ibusAt .hasHeader1 2 0xFF9F 0 RCMessage.zero with inputs := [⟨[], none, some (request (.parserByte 5))⟩] }
    s.Inv ∧ step s = .next { s with
      inputs := [], nowUs := 10, nowMs := 20, cnt := 3, cksum := 0xFF9A, work := msg 5 } :=
  ⟨by decide, rfl⟩

theorem witness_EveryOperationKeepsFifoInvariants :
    full.fifo.Wf ∧ exec (.rbPut (msg 5)) full = .next (after (.rbPut (msg 5)) full) := ⟨by decide, rfl⟩

/-- An empty queue; an inactive framer; a queue with entries, RD at its last slot. -/
theorem witness_QueueReadResult :
    let s : State := { full with fifo := { full.fifo with rd := 3 } }
    State.reset.fifo.count = 0 ∧ State.reset.active = false ∧
    0 < s.fifo.count ∧ s.fifo.rd < s.fifo.mem.length ∧ s.active = true := by decide

theorem witness_RbQueriesResult : full.fifo.count < 2 ^ 32 ∧ full.fifo.Wf := by decide

theorem witness_PutKeepsNewest : full.fifo.Wf ∧ (State.powerOn 1).fifo.Wf := by decide

theorem witness_GetTakesOldest : full.fifo.Wf ∧ State.reset.fifo.Wf := by decide

theorem witness_FifoLaw :
    State.reset.fifo.Wf ∧ State.reset.fifo.count = 0 ∧ (State.powerOn 1).fifo.Wf ∧ (State.powerOn 1).fifo.count = 0 := by
  decide

theorem witness_FiveItemsInDepthFour :
    State.reset.fifo.Wf ∧ State.reset.fifo.depth = 4 ∧ State.reset.fifo.count = 0 := by decide

theorem witness_ParsebyteRunsItsClass : State.reset.active = false ∧ full.active = true := by decide

/-- Both answers of PARSEBYTE occur. -/
theorem witness_ParsebyteTrueIffEnqueued :
    (after (.parsebyte 0xF3) v1Last).out.ok = true ∧ (after (.parsebyte 0xF2) v1Last).out.ok = false := by decide

/-- The four clauses. -/
theorem witness_OnlyHeaderLeavesInitialState :
    (ready .ibus).active = true ∧ (ready .ibus).st = .initial ∧ (ready .ibus).protoSel = .ibus ∧ (0x21 : Byte) ≠ 0x20 ∧
    (ready .sbus).active = true ∧ (ready .sbus).st = .initial ∧ (ready .sbus).protoSel = .sbus ∧ (0x20 : Byte) ≠ 0x0F ∧
    (0x20 : Byte) = 0x20 ∧ (0x0F : Byte) = 0x0F := by decide

theorem witness_IbusWh0HdrResult :
    (ready .ibus).active = true ∧ (ready .ibus).protoSel = .ibus ∧ (ready .ibus).st = .waitingForHeader0 := by decide

theorem witness_IbusSkipHeaderResyncResult :
    let s := ibusAt .hasHeader0 1 0xFFDF 0 RCMessage.zero
    (ready .ibus).active = true ∧ (ready .ibus).protoSel = .ibus ∧ (ready .ibus).st = .waitingForHeader0 ∧
    (0x21 : Byte) ≠ 0x20 ∧ s.active = true ∧ s.protoSel = .ibus ∧ s.st = .hasHeader0 ∧ (0x41 : Byte) ≠ 0x40 := by decide

/-- The first and the last data byte, and the three clauses on a channel: low lane, high lane, neither. -/
theorem witness_IbusH1DataResult :
    let s := ibusAt .hasHeader1 2 0xFF9F 0 RCMessage.zero
    let t := ibusAt .hasHeader1 29 0xF3DF 0 RCMessage.zero
    s.active = true ∧ s.protoSel = .ibus ∧ s.st = .hasHeader1 ∧ 2 ≤ s.cnt.toNat ∧ s.cnt.toNat ≤ 29 ∧
    t.active = true ∧ t.protoSel = .ibus ∧ t.st = .hasHeader1 ∧ 2 ≤ t.cnt.toNat ∧ t.cnt.toNat ≤ 29 ∧
    2 + 2 * (0 : Fin 16).val = s.cnt.toNat ∧ 3 + 2 * (13 : Fin 16).val = t.cnt.toNat ∧
    2 + 2 * (15 : Fin 16).val ≠ t.cnt.toNat ∧ 3 + 2 * (15 : Fin 16).val ≠ t.cnt.toNat := by decide

theorem witness_IbusHfCkloResult :
    let s := ibusAt .hasFrame 30 0xF3DA 0 msgV1
    s.active = true ∧ s.protoSel = .ibus ∧ s.st = .hasFrame := by decide

theorem witness_IbusCs0CkhiResult :
    v1Last.active = true ∧ v1Last.protoSel = .ibus ∧ v1Last.st = .hasCheckSum0 ∧
    (0xF3 : Byte) ++ v1Last.ckLo = v1Last.cksum ∧ (0xF2 : Byte) ++ v1Last.ckLo ≠ v1Last.cksum := by decide

set_option synthInstance.maxSize 1000 in
set_option synthInstance.maxHeartbeats 200000 in
/-- V1 before its last byte meets the invariant. -/
theorem inv_v1Last : v1Last.Inv := by decide

set_option synthInstance.maxSize 1000 in
set_option synthInstance.maxHeartbeats 200000 in
/-- So does an SBUS framer before a footer, and a framer of either protocol between frames. -/
theorem inv_aLast : aLast.Inv ∧ (ready .ibus).Inv ∧ (ready .sbus).Inv := ⟨by decide, by decide, by decide⟩

theorem witness_IbusAcceptsIffChecksumMatches :
    v1Last.Inv ∧ v1Last.active = true ∧ v1Last.protoSel = .ibus ∧ v1Last.st = .hasCheckSum0 :=
  ⟨inv_v1Last, rfl, rfl, rfl⟩

theorem witness_IbusMessagesHaveNoFlags :
    v1Last.Inv ∧ v1Last.active = true ∧ v1Last.protoSel = .ibus ∧ (after (.parsebyte 0xF3) v1Last).out.ok = true :=
  ⟨inv_v1Last, rfl, rfl, by decide⟩

/-- The 28 channel bytes of V1. -/
def bytesV1 : Vector Byte 28 :=
  #v[0xDB, 0x05, 0xDC, 0x05, 0x54, 0x05, 0xDC, 0x05, 0xE8, 0x03, 0xD0, 0x07, 0xD2, 0x05,
     0xE8, 0x03, 0xDC, 0x05, 0xDC, 0x05, 0xDC, 0x05, 0xDC, 0x05, 0xDC, 0x05, 0xDC, 0x05]

/-- V1's frame in the byte source; with a gap below a threshold of 300 before it (LAST_BYTE_US = 0, bytes at 7). -/
theorem witness_ValidIbusFrameDelivered :
    let s : State := { ready .ibus with idleUs := 300, src := buffered (ibusFrame bytesV1) }
    s.Inv ∧ s.active = true ∧ s.protoSel = .ibus ∧ s.st = .initial ∧ s.src = buffered (ibusFrame bytesV1) ∧
    (buffered (ibusFrame bytesV1)).map (fun x => x.byte) = ibusFrame bytesV1 ∧
    (ibusFrame bytesV1).drop 30 = [0xDA, 0xF3] ∧
    quiet s.idleUs s.lastByteUs (buffered (ibusFrame bytesV1)) = true :=
  ⟨inv_aLast.2.1, rfl, rfl, rfl, rfl, by decide, by decide, by decide⟩

/-- The first and the last offset, 2 and 31. -/
theorem witness_MutatedIbusFrameDropped :
    let s : State := { ready .ibus with src := buffered ((ibusFrame bytesV1).set 2 0xDC) }
    let t : State := { ready .ibus with src := buffered ((ibusFrame bytesV1).set 31 0xF2) }
    s.Inv ∧ s.active = true ∧ s.protoSel = .ibus ∧ s.st = .initial ∧ t.Inv ∧ t.active = true ∧ t.protoSel = .ibus ∧
    t.st = .initial ∧ (2 ≤ 2 ∧ 2 ≤ 31) ∧ (2 ≤ 31 ∧ 31 ≤ 31) ∧
    (ibusFrame bytesV1)[2]? ≠ some 0xDC ∧ (ibusFrame bytesV1)[31]? ≠ some 0xF2 ∧
    s.src.map (fun x => x.byte) = (ibusFrame bytesV1).set 2 0xDC ∧
    t.src.map (fun x => x.byte) = (ibusFrame bytesV1).set 31 0xF2 ∧
    quiet s.idleUs s.lastByteUs s.src = true ∧ quiet t.idleUs t.lastByteUs t.src = true :=
  ⟨inv_aLast.2.1, rfl, rfl, rfl, inv_aLast.2.1, rfl, rfl, rfl, by decide, by decide, by decide, by decide, by decide,
    by decide, by decide, by decide⟩

/-- The four clauses, the third at CNT = 1 and at CNT = 22. -/
theorem witness_SbusCollectingResult :
    let s := sbusAt .accumulateChannels 1 rawZero 0
    let t := sbusAt .accumulateChannels 22 rawA 0
    let u := sbusAt .readFlags 23 rawA 0
    (ready .sbus).active = true ∧ (ready .sbus).protoSel = .sbus ∧ (ready .sbus).st = .waitingForHeader ∧
    (0x10 : Byte) ≠ 0x0F ∧
    s.active = true ∧ s.protoSel = .sbus ∧ s.st = .accumulateChannels ∧ 1 ≤ s.cnt.toNat ∧ s.cnt.toNat ≤ 22 ∧
    t.active = true ∧ t.protoSel = .sbus ∧ t.st = .accumulateChannels ∧ 1 ≤ t.cnt.toNat ∧ t.cnt.toNat ≤ 22 ∧
    u.active = true ∧ u.protoSel = .sbus ∧ u.st = .readFlags := by decide

theorem witness_SbusVfOkResult :
    aLast.active = true ∧ aLast.protoSel = .sbus ∧ aLast.st = .validateFooter := by decide

theorem witness_SbusVfBadResult :
    aLast.active = true ∧ aLast.protoSel = .sbus ∧ aLast.st = .validateFooter ∧ (0x0F : Byte) ≠ 0x00 := by decide

theorem witness_SbusMessagesInRange :
    aLast.active = true ∧ aLast.protoSel = .sbus ∧ (after (.parsebyte 0x00) aLast).out.ok = true := by decide

/-- Frame A with its own footer, and with the footer 0x04 (D-S8). -/
theorem witness_SbusFrameDeliveredIffFooter :
    let s : State := { ready .sbus with src := buffered (sbusFrame rawA 0x0C 0x00) }
    let t : State := { ready .sbus with src := buffered (sbusFrame rawA 0x0C 0x04) }
    s.Inv ∧ s.active = true ∧ s.protoSel = .sbus ∧ s.st = .initial ∧
    t.Inv ∧ t.active = true ∧ t.protoSel = .sbus ∧ t.st = .initial ∧
    s.src.map (fun x => x.byte) = sbusFrame rawA 0x0C 0x00 ∧ t.src.map (fun x => x.byte) = sbusFrame rawA 0x0C 0x04 ∧
    quiet s.idleUs s.lastByteUs s.src = true ∧ quiet t.idleUs t.lastByteUs t.src = true ∧
    (0x00 : Byte) = 0x00 ∧ (0x04 : Byte) ≠ 0x00 :=
  ⟨inv_aLast.2.2, rfl, rfl, rfl, inv_aLast.2.2, rfl, rfl, rfl, by decide, by decide, by decide, by decide, by decide,
    by decide⟩

theorem witness_ParserReturnsToInitialState :
    v1Last.Inv ∧ v1Last.active = true ∧ v1Last.protoSel = .ibus ∧ (List.replicate 31 (0 : Byte)).length = 31 ∧
    aLast.Inv ∧ aLast.active = true ∧ aLast.protoSel = .sbus ∧ (List.replicate 24 (0 : Byte)).length = 24 :=
  ⟨inv_v1Last, rfl, rfl, rfl, inv_aLast.1, rfl, rfl, rfl⟩

/-- Another state, another protocol, no parser. -/
theorem witness_ClassRefusedOutsideItsCondition :
    (TransClass.instr .sbusVfBad 0x04).wellFormed = true ∧
    ¬ ((TransClass.instr .sbusVfBad 0x04).admittedIn ⟨(ready .sbus).active, (ready .sbus).protoSel, (ready .sbus).st⟩ = true) ∧
    (TransClass.instr .ibusWh0Hdr 0x20).wellFormed = true ∧
    ¬ ((TransClass.instr .ibusWh0Hdr 0x20).admittedIn ⟨(ready .sbus).active, (ready .sbus).protoSel, (ready .sbus).st⟩ = true) ∧
    ¬ ((TransClass.instr .ibusWh0Hdr 0x20).admittedIn
      ⟨State.reset.active, State.reset.protoSel, State.reset.st⟩ = true) := by decide

theorem witness_BeginResult :
    (SerialConfig.mk false .ibus 115200 1000 0).srcPresent = false ∧
    (cfg .rsvd).srcPresent = true ∧ (cfg .rsvd).protocol ≠ .ibus ∧ (cfg .rsvd).protocol ≠ .sbus ∧
    (cfg .none).protocol ≠ .ibus ∧ (cfg .none).protocol ≠ .sbus ∧
    (cfg .ibus).srcPresent = true ∧ ((cfg .ibus).protocol = .ibus ∨ (cfg .ibus).protocol = .sbus) ∧
    ((cfg .sbus).protocol = .ibus ∨ (cfg .sbus).protocol = .sbus) := by decide

/-- Inactive; idle detection off; a gap of exactly the threshold. -/
theorem witness_RxbyteFeedsParser :
    let s : State := { ready .ibus with idleUs := 300, lastByteUs := 1000, nowUs := 1300 }
    State.reset.expectStart = false ∧ State.reset.active = false ∧
    (ready .ibus).expectStart = false ∧ (ready .ibus).active = true ∧ (ready .ibus).idleUs = 0 ∧
    s.expectStart = false ∧ s.active = true ∧ s.nowUs - s.lastByteUs ≤ s.idleUs := by decide

/-- A gap one above the threshold, and one over the wrap of the time base. -/
theorem witness_IdleGapDropsOrStartsFrame :
    let s : State := { ready .ibus with idleUs := 300, lastByteUs := 1000, nowUs := 1301 }
    let t : State := { ready .sbus with idleUs := 300, lastByteUs := 0xFFFFFFFE, nowUs := 299 }
    s.active = true ∧ s.expectStart = false ∧ s.idleUs ≠ 0 ∧ s.nowUs - s.lastByteUs > s.idleUs ∧
    (s.protoSel = .ibus ∨ s.protoSel = .sbus) ∧ (0x41 : Byte) ≠ (if s.protoSel = .ibus then 0x20 else 0x0F) ∧
    (0x20 : Byte) = (if s.protoSel = .ibus then 0x20 else 0x0F) ∧
    t.active = true ∧ t.expectStart = false ∧ t.idleUs ≠ 0 ∧ t.nowUs - t.lastByteUs > t.idleUs ∧
    (t.protoSel = .ibus ∨ t.protoSel = .sbus) ∧ (0x0F : Byte) = (if t.protoSel = .ibus then 0x20 else 0x0F) := by decide

theorem witness_HeaderFilterIsRedundant :
    let s : State := { v1Last with idleUs := 300, lastByteUs := 1000, nowUs := 1301 }
    s.Inv ∧ s.active = true ∧ s.idleUs ≠ 0 ∧ s.nowUs - s.lastByteUs > s.idleUs :=
  ⟨inv_v1Last, rfl, by decide, by decide⟩

theorem witness_UpdateIsRxbytePerByte : State.reset.active = false ∧ (ready .sbus).active = true := by decide

theorem witness_AvailableResult : State.reset.active = false ∧ full.active = true := by decide

theorem witness_TimeoutAfterMessage :
    exec (.rxbyte 0xF3) v1Last = .next (after (.rxbyte 0xF3) v1Last) ∧ (after (.rxbyte 0xF3) v1Last).out.ok = true :=
  ⟨rfl, by decide⟩

/-- By a BEGIN and by an RXBYTE. -/
theorem witness_LastMsgWrittenOnlyOnSuccess :
    let s : State := { v1Last with nowMs := 4 }
    exec (.rxbyte 0xF3) s = .next (after (.rxbyte 0xF3) s) ∧ (Instr.rxbyte 0xF3) ≠ .update ∧
    (after (.rxbyte 0xF3) s).lastMsgMs ≠ s.lastMsgMs ∧
    exec (.begin (cfg .ibus)) s = .next (after (.begin (cfg .ibus)) s) ∧ (Instr.begin (cfg .ibus)) ≠ .update ∧
    (after (.begin (cfg .ibus)) s).lastMsgMs ≠ s.lastMsgMs :=
  ⟨rfl, by decide, by decide, rfl, by decide, by decide⟩

theorem witness_NoOperationDeactivates :
    (ready .ibus).Inv ∧ exec (.begin (cfg .none)) (ready .ibus) = .next (after (.begin (cfg .none)) (ready .ibus)) ∧
    (ready .ibus).active = true ∧ (after (.begin (cfg .none)) (ready .ibus)).active = true :=
  ⟨inv_aLast.2.1, rfl, rfl, by decide⟩

theorem witness_ConfigurationChangesOnlyByBegin :
    let t := after (.begin (cfg .ibus)) State.reset
    exec (.begin (cfg .ibus)) State.reset = .next t ∧
    (t.active, t.protoSel, t.baud, t.timeoutMs, t.idleUs) ≠
      (State.reset.active, State.reset.protoSel, State.reset.baud, State.reset.timeoutMs, State.reset.idleUs) :=
  ⟨rfl, by decide⟩

theorem witness_InertRegistersNeverRead : exec .tslm full = .next (after .tslm full) := rfl

end Sys2Proof.Tests
end

section
/-! PROOFS. The caller's RB.GET and the byte side's RB.PUT at one clock (R55, D14): what the two words decode to, what a
step does with the words on its ports, and what RB.GET and RB.PUT do to the live entries. -/

namespace Sys2Proof.Machine

/-! ### The words of RB.PUT and RB.GET (R73, R74) -/

/-- The bit layout of R74 loses no field: peel the fields above each channel off the word. -/
@[simp] theorem ofBits_toBits (m : RCMessage) : RCMessage.ofBits m.toBits = m := by
  have hch : (RCMessage.ofBits m.toBits).channels = m.channels := by
    ext1 i hi
    interval_cases i
    all_goals repeat refine (BitVec.extractLsb'_append_eq_of_add_le (by decide)).trans ?_
    · exact BitVec.extractLsb'_eq_self
    all_goals exact BitVec.extractLsb'_append_eq_left
  have hfl : (RCMessage.ofBits m.toBits).errorFlags = m.errorFlags := BitVec.extractLsb'_append_eq_left
  cases m
  exact congrArg₂ RCMessage.mk hch hfl

/-- A command word whose code has a row of the word's width decodes to that row's instruction (R73). -/
theorem decodeCommand_of_code {n : Nat} (c : BitVec 5) (x : BitVec n) (f : Format) (i : Instr)
    (h : commandRow c.toNat (c ++ x : BitVec (5 + n)) = some (f, i)) (hf : f.width = 5 + n) :
    decodeCommand (5 + n) (c ++ x) = .ok i := by
  simp only [decodeCommand, Laws.code_of_append, h, hf]
  simp

theorem decode_encode_rbPut (x : ParseCtx) (m : RCMessage) : decode x (encode (.rbPut m)) = .ok (.rbPut m) := by
  have hop : (0x18#5 ++ m.toBits : BitVec (5 + 264)).extractLsb' 0 264 = m.toBits :=
    BitVec.extractLsb'_append_eq_right
  have hrow : commandRow (0x18#5).toNat (0x18#5 ++ m.toBits : BitVec (5 + 264)) = some (.cm, .rbPut m) := by
    show some (Format.cm, Instr.rbPut (RCMessage.ofBits _)) = _
    rw [hop, ofBits_toBits]
  exact decodeCommand_of_code 0x18#5 m.toBits .cm _ hrow rfl

theorem decode_encode_rbGet (x : ParseCtx) : decode x (encode .rbGet) = .ok .rbGet := rfl

/-- A read of the FIFO beside any other word is no clock of two writers (U17). -/
theorem twoFifoWriters_rbGet {s : State} {arr : List SrcByte} {us ms : Word} {p : Request} {rest : List Clock}
    (h : s.inputs = ⟨arr, some ⟨encode .rbGet, us, ms⟩, some p⟩ :: rest) : s.twoFifoWriters = false := by
  rw [twoFifoWriters_both s _ _ _ _ h]
  rfl

/-! ### A step with words on its ports (R47, R55) -/

/-- A step whose clock has not two writers runs the instruction of the word it fetches. -/
theorem step_of_fetch {s t : State} {r : Request} {i : Instr} (hd : 0 < s.fifo.depth)
    (hw : s.twoFifoWriters = false) (hf : s.fetch = (some r, t)) (hi : decode t.parseCtx r.word = .ok i) :
    step s = exec i (t.atTime r.nowUs r.nowMs) := by
  simp [step, Nat.ne_of_gt hd, hw, hf, hi]

/-- Of two words at one clock the caller's runs and the byte side's stays first in line. -/
theorem step_both {s : State} {arr : List SrcByte} {r p : Request} {rest : List Clock} {i : Instr}
    (hd : 0 < s.fifo.depth) (hi : decode s.parseCtx r.word = .ok i)
    (h : s.inputs = ⟨arr, some r, some p⟩ :: rest) (hw : s.twoFifoWriters = false) :
    step s = exec i { s with
      src := s.src ++ arr, inputs := ⟨[], none, some p⟩ :: rest, nowUs := r.nowUs, nowMs := r.nowMs } := by
  have hf : s.fetch = (some r, { s with src := s.src ++ arr, inputs := ⟨[], none, some p⟩ :: rest }) := by
    rw [State.fetch, h]
  exact (step_of_fetch hd hw hf hi :)

/-- A word on the byte side's port alone runs. -/
theorem step_byteSide {s : State} {arr : List SrcByte} {r : Request} {rest : List Clock} {i : Instr}
    (hd : 0 < s.fifo.depth) (hi : decode s.parseCtx r.word = .ok i)
    (h : s.inputs = ⟨arr, none, some r⟩ :: rest) :
    step s = exec i { s with src := s.src ++ arr, inputs := rest, nowUs := r.nowUs, nowMs := r.nowMs } := by
  have hf : s.fetch = (some r, { s with src := s.src ++ arr, inputs := rest }) := by rw [State.fetch, h]
  exact (step_of_fetch hd (twoFifoWriters_byteSide s arr _ rest h) hf hi :)

theorem exec_rbGet (s : State) : exec .rbGet s = .next { s with
    fifo := s.fifo.get.1
    out := { Outputs.zero with ok := s.fifo.get.2.isSome, msg := s.fifo.get.2.getD RCMessage.zero } } := rfl

theorem exec_rbPut (m : RCMessage) (s : State) :
    exec (.rbPut m) s = .next { s with fifo := s.fifo.put m, out := Outputs.zero } := rfl

/-! ### The live entries (R23) -/

@[simp] theorem Fifo.read_write_same (f : Fifo) (i : Nat) (m : RCMessage) (h : i < f.depth) :
    (f.write i m).read i = m := by
  have h' : i < f.mem.length := h
  simp [Fifo.read, Fifo.write, h']

@[simp] theorem Fifo.read_write_ne (f : Fifo) {i j : Nat} (m : RCMessage) (h : i ≠ j) :
    (f.write i m).read j = f.read j := by
  simp [Fifo.read, Fifo.write, List.getElem?_set_ne h]

theorem Fifo.live_of_count_zero (f : Fifo) (h : f.count = 0) : f.live = [] := by
  simp [Fifo.live, h]

/-- A queue that is not empty is MEM[RD] and then what RB.GET leaves. -/
theorem Fifo.live_eq_cons (f : Fifo) (hrd : f.rd < f.depth) (hc : f.count ≠ 0) :
    f.live = f.read f.rd :: f.get.1.live := by
  obtain ⟨h0, -⟩ | ⟨-, e⟩ := f.get_cases
  · exact absurd h0 hc
  · obtain ⟨n, hn⟩ := Nat.exists_eq_succ_of_ne_zero hc
    rw [e]
    simp only [Fifo.live, hn, Nat.succ_sub_one, List.range_succ_eq_map, List.map_cons, List.map_map, Nat.add_zero,
      Nat.mod_eq_of_lt hrd]
    congr 1
    refine List.map_congr_left fun i _ => ?_
    show f.read ((f.rd + (i + 1)) % f.depth) = f.read (((f.rd + 1) % f.depth + i) % f.depth)
    rw [Nat.mod_add_mod, Nat.add_right_comm, Nat.add_assoc]

/-- R91: RB.GET leaves the live entries without the oldest. -/
theorem Fifo.live_get (f : Fifo) (hrd : f.rd < f.depth) : f.get.1.live = f.live.tail := by
  by_cases hc : f.count = 0
  · simp [Fifo.get, Fifo.isEmpty, hc, f.live_of_count_zero hc]
  · rw [f.live_eq_cons hrd hc, List.tail_cons]

/-- R91: RB.GET answers the oldest live entry, if there is one. -/
theorem Fifo.get_answer (f : Fifo) (hrd : f.rd < f.depth) : f.get.2 = f.live.head? := by
  obtain ⟨hc, e⟩ | ⟨hc, e⟩ := f.get_cases
  · rw [e, f.live_of_count_zero hc]; rfl
  · rw [f.live_eq_cons hrd hc, e]; rfl

/-- After RB.GET there is room: a queue that was full has lost its oldest entry, and N >= 1. -/
theorem Fifo.count_get_lt_depth (f : Fifo) (h : f.Wf) : f.get.1.count < f.get.1.depth := by
  obtain ⟨h0, -, -, h3, -⟩ := h
  rw [Fifo.get_depth]
  obtain ⟨hc, e⟩ | ⟨hc, e⟩ := f.get_cases <;> rw [e] <;> dsimp only <;> omega

/-- While there is room, WR is the index of no live entry. -/
theorem Fifo.wr_ne_live_index (f : Fifo) (h : f.Wf) (hc : f.count < f.depth) {i : Nat} (hi : i < f.count) :
    f.wr ≠ (f.rd + i) % f.depth := by
  obtain ⟨-, -, -, -, h4⟩ := h
  rw [h4]
  intro e
  have hm : f.count ≡ i [MOD f.depth] := Nat.ModEq.add_left_cancel' f.rd e
  exact hi.ne' (hm.eq_of_lt_of_lt hc (hi.trans hc))

/-- R90, while there is room: RB.PUT appends its item to the live entries. -/
theorem Fifo.live_put_of_room (f : Fifo) (m : RCMessage) (h : f.Wf) (hc : f.count < f.depth) :
    (f.put m).live = f.live ++ [m] := by
  obtain ⟨hf, -⟩ | ⟨-, e⟩ := f.put_cases m
  · exact absurd hf hc.ne
  have hlive : (f.put m).live =
      (List.range (f.count + 1)).map fun i => (f.write f.wr m).read ((f.rd + i) % f.depth) := by
    rw [Fifo.live, Fifo.put_depth, e]; rfl
  have hold : ∀ i ∈ List.range f.count,
      (f.write f.wr m).read ((f.rd + i) % f.depth) = f.read ((f.rd + i) % f.depth) := fun i hi =>
    Fifo.read_write_ne f m (f.wr_ne_live_index h hc (List.mem_range.mp hi))
  have hnew : (f.write f.wr m).read ((f.rd + f.count) % f.depth) = m := by
    obtain ⟨-, hwr, -, -, h4⟩ := h
    rw [← h4, Fifo.read_write_same f _ m hwr]
  rw [hlive, List.range_succ, List.map_append, List.map_congr_left hold, List.map_singleton, hnew, Fifo.live]

/-- RB.GET and then RB.PUT: the item goes behind the entries the read left, and nothing is evicted. -/
theorem Fifo.live_get_put (f : Fifo) (m : RCMessage) (h : f.Wf) :
    (f.get.1.put m).live = f.live.tail ++ [m] := by
  have ⟨_, _, hrd, _⟩ := h
  rw [Fifo.live_put_of_room _ m (f.get_wf h) (f.count_get_lt_depth h), f.live_get hrd]

/-! ### The obligation -/

/-- Settles O8: the read's step leaves the put first in line and room for it, so the put's step evicts nothing. -/
theorem sameClockGetBeforePut : Obligations.SameClockGetBeforePut := by
  intro s m us ms us' ms' rest hwf hin
  have ⟨hdepth, _, hrd, _⟩ := hwf
  have hread := (step_both hdepth (decode_encode_rbGet _) hin (twoFifoWriters_rbGet hin)).trans (exec_rbGet _)
  have hdepth' : 0 < s.fifo.get.1.depth := s.fifo.get_depth.symm ▸ hdepth
  refine ⟨_, _, hread, (step_byteSide hdepth' (decode_encode_rbPut _ m) rfl).trans (exec_rbPut m _),
    ?ok, ?msg, s.fifo.live_get_put m hwf, rfl⟩
  case ok =>
    show s.fifo.get.2.isSome = !s.fifo.live.isEmpty
    rw [s.fifo.get_answer hrd]
    cases s.fifo.live <;> rfl
  case msg =>
    show s.fifo.get.2.getD RCMessage.zero = s.fifo.live.headD RCMessage.zero
    rw [s.fifo.get_answer hrd, List.headD_eq_head?_getD]

end Sys2Proof.Machine
end

section
/-! PROOFS. What an instruction can do to a state, said once over all instructions, and what RXBYTE does before the
parser sees its byte (R172). -/

namespace Sys2Proof.Machine

/-! ### What an instruction can do -/

/-- The ways an instruction that answers a next state can change it: one constructor for each shared operation that
writes registers. The index is fixed for the three instructions that alone write the transport's registers. -/
inductive Effect : Instr → State → State → Prop
  /-- no register is written: a query, a failing BEGIN, an operation that needs ACTIVE = 1 and finds 0 -/
  | outputs {i : Instr} {s : State} (o : Outputs) : Effect i s { s with out := o }
  /-- the FIFO's read: RB.GET, GETMSGFIFO, GETMESSAGE -/
  | get {i : Instr} {s : State} (o : Outputs) : Effect i s { s with fifo := s.fifo.get.1, out := o }
  /-- the FIFO's write: RB.PUT, PARSERNOTIFY -/
  | put {i : Instr} {s : State} (m : RCMessage) (o : Outputs) : Effect i s { s with fifo := s.fifo.put m, out := o }
  /-- RB.CLEAR -/
  | clear {i : Instr} {s : State} (o : Outputs) : Effect i s { s with fifo := s.fifo.clear, out := o }
  /-- RESETPARSER -/
  | resetParser {i : Instr} {s : State} : Effect i s s.clearOut.resetParser
  /-- the transition the byte selects: PARSEBYTE, or the class as an instruction of its own -/
  | transition {i : Instr} {s : State} (b : Byte) (o : Outputs) (ha : s.active = true) :
      Effect i s { (transition (s.parseCtx.classOf b) b s.clearOut).1 with out := o }
  /-- a successful BEGIN -/
  | begin {s : State} (cfg : SerialConfig) (hp : cfg.protocol.supported = true) :
      Effect (.begin cfg) s
        { s.clearOut.beginWith cfg with out := { (s.clearOut.beginWith cfg).out with ok := true } }
  /-- RXBYTE -/
  | rxbyte {s : State} (b : Byte) :
      Effect (.rxbyte b) s
        { (rxByte b s.clearOut).1 with out := { (rxByte b s.clearOut).1.out with ok := (rxByte b s.clearOut).2 } }
  /-- UPDATE -/
  | update {s : State} : Effect .update s (drain s.src { s.clearOut with src := [] })

theorem execBegin_effect {cfg : SerialConfig} {s t : State} (h : execBegin cfg s = .next t) :
    Effect (.begin cfg) s t := by
  unfold execBegin at h
  split at h
  · cases h; exact .outputs _
  · split at h
    · cases h; exact .outputs _
    · rename_i hp
      cases h; exact .begin cfg (by simpa using hp)

theorem execUpdate_effect {s t : State} (h : execUpdate s = .next t) : Effect .update s t := by
  unfold execUpdate at h
  split at h <;> cases h
  · exact .update
  · exact .outputs _

theorem execGetmessage_effect {i : Instr} {s t : State} (h : execGetmessage s = .next t) : Effect i s t := by
  unfold execGetmessage at h
  split at h <;> cases h
  · exact .get _
  · exact .outputs _

theorem execParsebyte_effect {i : Instr} {b : Byte} {s t : State} (h : execParsebyte b s = .next t) :
    Effect i s t := by
  cases h
  cases ha : s.active
  · rw [parseByte_inactive s.clearOut b ha]; exact .outputs _
  · rw [parseByte_active s.clearOut b ha]; exact .transition b _ ha

theorem execClass_effect {i : Instr} {c : TransClass} {b : Byte} {s t : State} (h : execClass c b s = .next t) :
    Effect i s t := by
  obtain ⟨ha, rfl, rfl⟩ := execClass_next c b s t h
  exact .transition b _ ha

/-- The inversion of `exec`, over all instructions. -/
theorem exec_effect {i : Instr} {s t : State} (h : exec i s = .next t) : Effect i s t := by
  cases i
  case begin cfg => exact execBegin_effect h
  case update => exact execUpdate_effect h
  case rxbyte b => cases h; exact .rxbyte b
  case parsebyte b => exact execParsebyte_effect h
  case getmessage => exact execGetmessage_effect h
  case getmsgfifo | rbGet => cases h; exact .get _
  case parsernotify => cases h; exact .put s.work _
  case rbPut m => cases h; exact .put m _
  case rbClear => cases h; exact .clear _
  case resetparser => cases h; exact .resetParser
  case available | timeout | tslm | listener | rbIsempty | rbIsfull | rbCount => cases h; exact .outputs _
  all_goals exact execClass_effect h

/-! ### RXBYTE up to the parser (R172 lines 1 to 4) -/

@[simp] theorem idleCheck_protoSel (s : State) : s.idleCheck.protoSel = s.protoSel := by
  unfold State.idleCheck; split <;> rfl

@[simp] theorem idleCheck_fifo (s : State) : s.idleCheck.fifo = s.fifo := by
  unfold State.idleCheck; split <;> rfl

@[simp] theorem idleCheck_lastMsgMs (s : State) : s.idleCheck.lastMsgMs = s.lastMsgMs := by
  unfold State.idleCheck; split <;> rfl

@[simp] theorem idleCheck_nowMs (s : State) : s.idleCheck.nowMs = s.nowMs := by
  unfold State.idleCheck; split <;> rfl

/-- The state in which RXBYTE hands its byte to the parser or discards it (R172 lines 2 to 4). -/
def State.received (s : State) : State := { s.idleCheck.stampByte with expectStart := false }

@[simp] theorem received_fifo (s : State) : s.received.fifo = s.fifo := idleCheck_fifo s
@[simp] theorem received_lastMsgMs (s : State) : s.received.lastMsgMs = s.lastMsgMs := idleCheck_lastMsgMs s
@[simp] theorem received_nowMs (s : State) : s.received.nowMs = s.nowMs := idleCheck_nowMs s

/-- R172 lines 4 to 7 in one equation: EXPECT_START is 0 afterwards, whichever way the filter decides. -/
theorem filterAndFeed_eq (b : Byte) (s : State) :
    filterAndFeed b s =
      if s.expectStart = true ∧ b ≠ hdr0 s.protoSel then ({ s with expectStart := false }.raise .idleDiscard, false)
      else feed b { s with expectStart := false } := by
  cases he : s.expectStart
  · have hs : { s with expectStart := false } = s := by rw [← he]
    simp [filterAndFeed, he, hs]
  · by_cases hb : b = hdr0 s.protoSel <;> simp [filterAndFeed, he, hb]

/-- R172: RXBYTE does nothing while ACTIVE = 0, discards a byte that is not the expected header, and feeds any other. -/
theorem rxByte_eq (b : Byte) (s : State) :
    rxByte b s =
      if s.active = true then
        if s.idleCheck.expectStart = true ∧ b ≠ hdr0 s.protoSel then (s.received.raise .idleDiscard, false)
        else feed b s.received
      else (s, false) := by
  rw [← idleCheck_protoSel]
  exact congrArg (fun r => if s.active = true then r else (s, false)) (filterAndFeed_eq b s.idleCheck.stampByte)

/-- The three outcomes of RXBYTE. -/
theorem rxByte_cases (b : Byte) (s : State) :
    rxByte b s = (s, false) ∨ rxByte b s = (s.received.raise .idleDiscard, false) ∨ rxByte b s = feed b s.received := by
  rw [rxByte_eq]
  split
  · split
    · exact .inr (.inl rfl)
    · exact .inr (.inr rfl)
  · exact .inl rfl

end Sys2Proof.Machine
end

section
/-! PROOFS. The registers as a whole (10_state.md): the invariant along every step, the FIFO's form, who writes
LAST_MSG_MS, the registers that nothing reads, and the values at power-on. -/

namespace Sys2Proof.Machine

/-! ### The invariant of the registers (R20, R23, R27, R29) -/

/-- A well-formed FIFO and any outputs may stand in a state of the invariant. -/
theorem State.Inv.withFifo {s : State} (h : s.Inv) {f : Fifo} (hf : f.Wf) (o : Outputs) :
    ({ s with fifo := f, out := o } : State).Inv :=
  ⟨hf, h.2⟩

theorem State.Inv.withOut {s : State} (h : s.Inv) (o : Outputs) : ({ s with out := o } : State).Inv := h

theorem State.Inv.atTime {s : State} (h : s.Inv) (us ms : Word) : (s.atTime us ms).Inv := h

theorem State.Inv.clearOut {s : State} (h : s.Inv) : s.clearOut.Inv := h

/-- R111, R116: RESETPARSER keeps the invariant. -/
theorem State.Inv.resetParser {s : State} (h : s.Inv) : s.resetParser.Inv := by
  obtain ⟨hf, he, hoff, hon, -, -⟩ := h
  exact resetParser_inv s hf he (fun ha => (hoff ha).1) hon

/-- R70: the supported selectors. -/
theorem supported_iff_ibus_or_sbus {p : Proto} : p.supported = true ↔ p = .ibus ∨ p = .sbus := by
  cases p <;> decide

/-- R171: a successful BEGIN leaves an active framer with its parser in the initial state and an empty FIFO. -/
theorem beginWith_inv {s : State} (cfg : SerialConfig) (hf : s.fifo.Wf) (hp : cfg.protocol.supported = true) :
    (s.beginWith cfg).Inv := by
  let u : State := { s with protoSel := cfg.protocol, active := true, fifo := s.fifo.clear, expectStart := false }
  have hu : u.resetParser.Inv :=
    resetParser_inv u (s.fifo.clear_wf hf) rfl nofun (fun _ => supported_iff_ibus_or_sbus.mp hp)
  exact hu

/-- Every instruction keeps the invariant. -/
theorem Effect.inv {i : Instr} {s t : State} (e : Effect i s t) (h : s.Inv) : t.Inv := by
  have hf : s.fifo.Wf := h.1
  cases e with
  | outputs o => exact h.withOut o
  | get o => exact h.withFifo (s.fifo.get_wf hf) o
  | put m o => exact h.withFifo (s.fifo.put_wf m hf) o
  | clear o => exact h.withFifo (s.fifo.clear_wf hf) o
  | resetParser => exact h.clearOut.resetParser
  | transition b o ha => exact (transition_inv s.clearOut b h.clearOut ha).withOut o
  | begin cfg hp => exact (beginWith_inv cfg hf hp).withOut _
  | rxbyte b => exact (rxByte_inv _ b h.clearOut).withOut _
  | update => exact drain_inv _ _ h

/-- Taking a request moves the clock's arrivals into the byte source and the queue of requests on, nothing else. -/
theorem fetch_frame (s : State) : s.fetch.2 = { s with src := s.fetch.2.src, inputs := s.fetch.2.inputs } := by
  unfold State.fetch
  split
  · rfl
  · split
    · split <;> rfl
    · rfl

theorem State.Inv.fetch {s : State} (h : s.Inv) : s.fetch.2.Inv := by
  rw [fetch_frame]
  exact h

/-- R75, R118: a word that is no instruction changes no register. -/
theorem answerReject_next {why : Reject} {s t : State} (h : answerReject why s = .next t) : t = s.clearOut := by
  cases why <;> cases h <;> rfl

/-- Settles O12: the state that decodes differs from `s` in its ports and time samples only, which the invariant does
not read, and what then runs is no instruction, or has one of the effects that keep the invariant. -/
theorem stepKeepsInvariant : Obligations.StepKeepsInvariant := by
  intro s t h hs
  obtain ⟨-, e⟩ | ⟨-, -, e⟩ | ⟨r, -, -, ⟨i, -, e⟩ | ⟨why, -, e⟩⟩ := step_cases s h.1.1 <;> rw [e] at hs
  · cases hs
  · cases hs
    exact h.fetch.clearOut
  · exact (exec_effect hs).inv (h.fetch.atTime _ _)
  · rw [answerReject_next hs]
    exact (h.fetch.atTime _ _).clearOut

/-! ### The form and the capacity of the FIFO (R22, R23) -/

/-- A transition leaves the FIFO alone or puts one message (R117). -/
theorem transition_fifo_eq_or_put (c : TransClass) (b : Byte) (s : State) :
    (transition c b s).1.fifo = s.fifo ∨ ∃ m, (transition c b s).1.fifo = s.fifo.put m := by
  obtain ⟨-, h⟩ | ⟨-, -, h, -⟩ | ⟨-, -, h⟩ := transition_fifo c b s
  · exact .inl h
  · exact .inr ⟨s.work, by rw [h]; rfl⟩
  · exact .inr ⟨_, h⟩

/-- `g` meets the FIFO invariants and has the capacity N of `f`. -/
abbrev Fifo.WfLike (f g : Fifo) : Prop := g.Wf ∧ g.depth = f.depth

theorem Fifo.wfLike_put {f : Fifo} (m : RCMessage) (h : f.Wf) : f.WfLike (f.put m) := ⟨f.put_wf m h, f.put_depth m⟩

theorem transition_wfLike (c : TransClass) (b : Byte) (s : State) (h : s.fifo.Wf) :
    s.fifo.WfLike (transition c b s).1.fifo := by
  obtain e | ⟨m, e⟩ := transition_fifo_eq_or_put c b s <;> rw [e]
  · exact ⟨h, rfl⟩
  · exact Fifo.wfLike_put m h

theorem parseByte_wfLike (b : Byte) (s : State) (h : s.fifo.Wf) : s.fifo.WfLike (parseByte b s).1.fifo := by
  unfold parseByte
  split
  · exact transition_wfLike _ b s h
  · exact ⟨h, rfl⟩

theorem feed_wfLike (b : Byte) (s : State) (h : s.fifo.Wf) : s.fifo.WfLike (feed b s).1.fifo := by
  rw [feed_eq]
  exact parseByte_wfLike b s h

theorem rxByte_wfLike (b : Byte) (s : State) (h : s.fifo.Wf) : s.fifo.WfLike (rxByte b s).1.fifo := by
  have hr : s.received.fifo = s.fifo := received_fifo s
  obtain e | e | e := rxByte_cases b s <;> rw [e]
  · exact ⟨h, rfl⟩
  · exact hr.symm ▸ ⟨h, rfl⟩
  · exact hr ▸ feed_wfLike b s.received (hr ▸ h)

theorem drain_wfLike (xs : List SrcByte) (s : State) (h : s.fifo.Wf) : s.fifo.WfLike (drain xs s).fifo := by
  induction xs generalizing s with
  | nil => exact ⟨h, rfl⟩
  | cons x xs ih =>
    obtain ⟨hwf, hd⟩ := rxByte_wfLike x.byte (s.atTime x.nowUs x.nowMs) h
    obtain ⟨hwf', hd'⟩ := ih _ hwf
    exact ⟨hwf', hd'.trans hd⟩

/-- Every instruction keeps the FIFO's form and its capacity. -/
theorem Effect.wfLike {i : Instr} {s t : State} (e : Effect i s t) (h : s.fifo.Wf) : s.fifo.WfLike t.fifo := by
  cases e with
  | outputs | resetParser => exact ⟨h, rfl⟩
  | get => exact ⟨s.fifo.get_wf h, s.fifo.get_depth⟩
  | put m => exact Fifo.wfLike_put m h
  | clear | begin => exact ⟨s.fifo.clear_wf h, rfl⟩
  | transition b => exact transition_wfLike _ b s.clearOut h
  | rxbyte b => exact rxByte_wfLike b s.clearOut h
  | update => exact drain_wfLike s.src { s.clearOut with src := [] } h

/-- Settles O13: every effect leaves the FIFO alone or applies its read, its write or its clear. -/
theorem everyOperationKeepsFifoInvariants : Obligations.EveryOperationKeepsFifoInvariants :=
  fun _ _ _ h hs => (exec_effect hs).wfLike h

/-! ### LAST_MSG_MS (R25) -/

theorem transition_lastMsgMs (c : TransClass) (b : Byte) (s : State) :
    (transition c b s).1.lastMsgMs = s.lastMsgMs := by
  rw [transition_frame]

theorem feed_lastMsgMs (b : Byte) (s : State) :
    (feed b s).1.lastMsgMs = if (feed b s).2 then s.nowMs else s.lastMsgMs := by
  rw [feed_eq, parseByte_frame]

/-- R172 line 6: RXBYTE stamps LAST_MSG_MS exactly when it answers true. -/
theorem rxByte_lastMsgMs (b : Byte) (s : State) :
    (rxByte b s).1.lastMsgMs = if (rxByte b s).2 then s.nowMs else s.lastMsgMs := by
  obtain e | e | e := rxByte_cases b s <;> rw [e]
  · rfl
  · exact received_lastMsgMs s
  · rw [feed_lastMsgMs, received_nowMs, received_lastMsgMs]

/-- Settles O57: of the effects other than UPDATE's only a successful BEGIN's and an accepting RXBYTE's touch the
register. -/
theorem lastMsgWrittenOnlyOnSuccess : Obligations.LastMsgWrittenOnlyOnSuccess := by
  intro i s t hs hi hne
  cases exec_effect hs with
  | outputs | get | put | clear | resetParser => exact absurd rfl hne
  | transition b => exact absurd (transition_lastMsgMs _ b s.clearOut) hne
  | update => exact absurd rfl hi
  | begin cfg => exact ⟨rfl, rfl, .inl ⟨cfg, rfl⟩⟩
  | rxbyte b =>
    have hl := rxByte_lastMsgMs b s.clearOut
    cases hok : (rxByte b s.clearOut).2
    · rw [hok] at hl
      exact absurd hl hne
    · rw [hok] at hl
      exact ⟨hl, rfl, .inr ⟨b, rfl⟩⟩

/-! ### The registers that no rule reads (R24, D22) -/

/-- `s` with other values in the two registers that no rule reads (R24, D22). -/
def State.withInert (s : State) (baud tmo : Word) : State := { s with baud := baud, timeoutMs := tmo }

section
variable (baud tmo : Word)

@[simp] theorem withInert_active (s : State) : (s.withInert baud tmo).active = s.active := rfl
@[simp] theorem withInert_protoSel (s : State) : (s.withInert baud tmo).protoSel = s.protoSel := rfl
@[simp] theorem withInert_cksum (s : State) : (s.withInert baud tmo).cksum = s.cksum := rfl
@[simp] theorem withInert_ckLo (s : State) : (s.withInert baud tmo).ckLo = s.ckLo := rfl
@[simp] theorem withInert_expectStart (s : State) : (s.withInert baud tmo).expectStart = s.expectStart := rfl

theorem transition_withInert (c : TransClass) (b : Byte) (s : State) :
    transition c b (s.withInert baud tmo) = ((transition c b s).1.withInert baud tmo, (transition c b s).2) := by
  cases c
  case ibusCs0Ckhi =>
    by_cases hck : receivedChecksum b s.ckLo = s.cksum <;>
      simp only [transition, ibusCs0Ckhi, withInert_ckLo, withInert_cksum, if_pos, if_neg, hck, not_false_eq_true] <;>
      rfl
  all_goals rfl

theorem parseByte_withInert (b : Byte) (s : State) :
    parseByte b (s.withInert baud tmo) = ((parseByte b s).1.withInert baud tmo, (parseByte b s).2) := by
  cases ha : s.active
  · rw [parseByte_inactive s b ha, parseByte_inactive (s.withInert baud tmo) b ha]
  · rw [parseByte_active s b ha, parseByte_active (s.withInert baud tmo) b ha]
    exact transition_withInert baud tmo (s.parseCtx.classOf b) b s

theorem feed_withInert (b : Byte) (s : State) :
    feed b (s.withInert baud tmo) = ((feed b s).1.withInert baud tmo, (feed b s).2) := by
  rw [feed_eq, feed_eq, parseByte_withInert]
  rfl

theorem idleCheck_withInert (s : State) :
    (s.withInert baud tmo).idleCheck = s.idleCheck.withInert baud tmo := by
  have hg : (s.withInert baud tmo).idleGap = s.idleGap := rfl
  unfold State.idleCheck
  rw [hg]
  split <;> rfl

theorem received_withInert (s : State) : (s.withInert baud tmo).received = s.received.withInert baud tmo := by
  unfold State.received
  rw [idleCheck_withInert]
  rfl

theorem rxByte_withInert (b : Byte) (s : State) :
    rxByte b (s.withInert baud tmo) = ((rxByte b s).1.withInert baud tmo, (rxByte b s).2) := by
  simp only [rxByte_eq, received_withInert, idleCheck_withInert, feed_withInert, withInert_active,
    withInert_protoSel, withInert_expectStart]
  split
  · split <;> rfl
  · rfl

theorem drain_withInert (xs : List SrcByte) (s : State) :
    drain xs (s.withInert baud tmo) = (drain xs s).withInert baud tmo := by
  induction xs generalizing s with
  | nil => rfl
  | cons x xs ih =>
    have hx := rxByte_withInert baud tmo x.byte (s.atTime x.nowUs x.nowMs)
    calc drain (x :: xs) (s.withInert baud tmo)
        = drain xs (rxByte x.byte ((s.atTime x.nowUs x.nowMs).withInert baud tmo)).1 := rfl
      _ = (drain (x :: xs) s).withInert baud tmo := by rw [hx]; exact ih _

theorem execClass_withInert {c : TransClass} {b : Byte} {s t : State} (o : Outputs) (h : execClass c b s = .next t) :
    execClass c b { s with baud := baud, timeoutMs := tmo, out := o } = .next (t.withInert baud tmo) := by
  obtain ⟨ha, hc, rfl⟩ := execClass_next c b s t h
  rw [execClass_selected c b { s with baud := baud, timeoutMs := tmo, out := o } ha hc]
  exact congrArg answerOk (transition_withInert baud tmo c b s.clearOut)

theorem execUpdate_withInert {s t : State} (o : Outputs) (h : execUpdate s = .next t) :
    execUpdate { s with baud := baud, timeoutMs := tmo, out := o } = .next (t.withInert baud tmo) := by
  unfold execUpdate at h ⊢
  split at h <;> rename_i ha <;> cases h
  · exact (if_pos ha).trans (congrArg answerNone (drain_withInert baud tmo s.src { s.clearOut with src := [] }))
  · exact if_neg ha

theorem execGetmessage_withInert {s t : State} (o : Outputs) (h : execGetmessage s = .next t) :
    execGetmessage { s with baud := baud, timeoutMs := tmo, out := o } = .next (t.withInert baud tmo) := by
  unfold execGetmessage at h ⊢
  split at h <;> rename_i ha <;> cases h
  · exact if_pos ha
  · exact if_neg ha

/-- BEGIN overwrites both registers or keeps them. -/
theorem execBegin_inert {cfg : SerialConfig} {s t : State} (o : Outputs) (h : execBegin cfg s = .next t) :
    ∃ u, execBegin cfg { s with baud := baud, timeoutMs := tmo, out := o } = .next u ∧
      u = { t with baud := u.baud, timeoutMs := u.timeoutMs } := by
  unfold execBegin at h ⊢
  split at h
  · rename_i hsrc
    cases h
    exact ⟨_, if_pos hsrc, rfl⟩
  · rename_i hsrc
    rw [if_neg hsrc]
    split at h <;> rename_i hp <;> cases h
    · exact ⟨_, if_pos hp, rfl⟩
    · exact ⟨_, if_neg hp, rfl⟩

end

/-- Settles O60: every instruction begins by clearing the outputs, and what it then does commutes with `withInert`. -/
theorem inertRegistersNeverRead : Obligations.InertRegistersNeverRead := by
  intro i s t baud tmo o h
  cases i
  case begin cfg => exact execBegin_inert baud tmo o h
  case update => exact ⟨_, execUpdate_withInert baud tmo o h, rfl⟩
  case rxbyte b => cases h; exact ⟨_, congrArg answerOk (rxByte_withInert baud tmo b s.clearOut), rfl⟩
  case parsebyte b => cases h; exact ⟨_, congrArg answerOk (parseByte_withInert baud tmo b s.clearOut), rfl⟩
  case getmessage => exact ⟨_, execGetmessage_withInert baud tmo o h, rfl⟩
  case available | timeout | tslm | listener | rbIsempty | rbIsfull | rbCount | getmsgfifo | rbGet | rbPut | rbClear |
      parsernotify | resetparser =>
    cases h; exact ⟨_, rfl, rfl⟩
  all_goals exact ⟨_, execClass_withInert baud tmo o h, rfl⟩

/-! ### Power-on reset (R33, D9) -/

/-- Settles O10: `State.powerOn` names each register's value. -/
theorem powerOnValues : Obligations.PowerOnValues := by
  intro n
  and_intros <;> rfl

end Sys2Proof.Machine
end

section
/-! PROOFS. What one step does with what stands on the ports (R47), and who writes the configuration (20_memory.md R56,
10_state.md R20, R24). -/

namespace Sys2Proof.Machine

/-! ### The configuration: ACTIVE, PROTO_SEL, BAUD, TIMEOUT_MS, IDLE_US (R20, R24, R56) -/

/-- The registers that a successful BEGIN alone writes. -/
def State.configuration (s : State) : Bool × Proto × Word × Word × Word :=
  (s.active, s.protoSel, s.baud, s.timeoutMs, s.idleUs)

theorem transition_configuration (c : TransClass) (b : Byte) (s : State) :
    (transition c b s).1.configuration = s.configuration := by
  rw [transition_frame]
  rfl

theorem feed_configuration (b : Byte) (s : State) : (feed b s).1.configuration = s.configuration := by
  rw [feed_eq, parseByte_frame]
  rfl

theorem received_configuration (s : State) : s.received.configuration = s.configuration := by
  unfold State.received State.idleCheck
  split <;> rfl

theorem rxByte_configuration (b : Byte) (s : State) : (rxByte b s).1.configuration = s.configuration := by
  obtain e | e | e := rxByte_cases b s <;> rw [e]
  · exact received_configuration s
  · exact (feed_configuration b s.received).trans (received_configuration s)

theorem drain_configuration (xs : List SrcByte) (s : State) : (drain xs s).configuration = s.configuration := by
  induction xs generalizing s with
  | nil => rfl
  | cons x xs ih => exact (ih _).trans (rxByte_configuration x.byte (s.atTime x.nowUs x.nowMs))

/-- An effect leaves the configuration alone or is that of a successful BEGIN. -/
theorem Effect.configuration_eq_or_begin {i : Instr} {s t : State} (e : Effect i s t) :
    t.configuration = s.configuration ∨ ∃ cfg, i = .begin cfg ∧ t.out.ok = true := by
  cases e with
  | outputs | get | put | clear | resetParser => exact .inl rfl
  | transition b => exact .inl (transition_configuration _ b s.clearOut)
  | begin cfg => exact .inr ⟨cfg, rfl, rfl⟩
  | rxbyte b => exact .inl (rxByte_configuration b s.clearOut)
  | update => exact .inl (drain_configuration s.src { s.clearOut with src := [] })

/-- Settles O59: of the effects of an instruction only a successful BEGIN's writes the configuration. -/
theorem configurationChangesOnlyByBegin : Obligations.ConfigurationChangesOnlyByBegin :=
  fun _ _ _ hs hne => (exec_effect hs).configuration_eq_or_begin.resolve_left hne

/-! ### The words on the ports (R47; log 3, log 16) -/

/-- A word on the caller's port alone runs. -/
theorem step_caller {s : State} {arr : List SrcByte} {r : Request} {rest : List Clock} {i : Instr}
    (hd : 0 < s.fifo.depth) (hi : decode s.parseCtx r.word = .ok i)
    (h : s.inputs = ⟨arr, some r, none⟩ :: rest) :
    step s = exec i { s with src := s.src ++ arr, inputs := rest, nowUs := r.nowUs, nowMs := r.nowMs } := by
  have hf : s.fetch = (some r, { s with src := s.src ++ arr, inputs := rest }) := by rw [State.fetch, h]
  exact (step_of_fetch hd (twoFifoWriters_caller s arr r rest h) hf hi :)

/-- Settles O5: one lemma for each arrangement of the ports. -/
theorem stepRunsDecodedInstruction : Obligations.StepRunsDecodedInstruction :=
  fun _ _ _ _ _ _ hd hi => ⟨step_caller hd hi, step_byteSide hd hi, step_both hd hi⟩

/-! ### A step with no word on a port (log 4) -/

/-- A step that fetches no request only clears the outputs. -/
theorem step_of_fetch_none {s t : State} (hd : 0 < s.fifo.depth) (hw : s.twoFifoWriters = false)
    (hf : s.fetch = (none, t)) : step s = .next t.clearOut := by
  simp [step, Nat.ne_of_gt hd, hw, hf, answerNone]

/-- Settles O6: no clock, or an empty one, gives no request to fetch. -/
theorem stepWithoutRequestIsIdle : Obligations.StepWithoutRequestIsIdle := by
  intro s hd
  constructor
  · intro h
    have hf : s.fetch = (none, s) := by rw [State.fetch, h]
    exact step_of_fetch_none hd (twoFifoWriters_nil s h) hf
  · intro arr rest h
    have hf : s.fetch = (none, { s with src := s.src ++ arr, inputs := rest }) := by rw [State.fetch, h]
    exact step_of_fetch_none hd (twoFifoWriters_byteSide s arr none rest h) hf

end Sys2Proof.Machine
end

section
/-! PROOFS. The transition classes as the first match of the tables of R67 and R68, and UNPACK as the byte-and-shift
table of R65. -/

namespace Sys2Proof.Machine

/-! ### The transition decode (30_encoding.md R67, R68) -/

/-- A row with the full mask matches one byte, under its protocol and tag. -/
theorem ClassRow.matches_byte (p : Proto) (t : Tag) (v b : Byte) (x : ParseCtx) :
    (ClassRow.mk p t 0xFF v).matches x b = decide ((p = x.protoSel.dialect ∧ t = x.tag) ∧ b = v) := by
  have hb : b &&& 0xFF = b := BitVec.and_allOnes
  rw [ClassRow.matches, hb, Bool.decide_and, Bool.decide_and, beq_eq_decide]

/-- A row with the empty mask matches every byte, under its protocol and tag. -/
theorem ClassRow.matches_any (p : Proto) (t : Tag) (b : Byte) (x : ParseCtx) :
    (ClassRow.mk p t 0x00 0x00).matches x b = decide (p = x.protoSel.dialect ∧ t = x.tag) := by
  simp [ClassRow.matches]

/-- R67: under the IBus dialect only the first two tags compare the byte. -/
theorem find_classTable_ibus {x : ParseCtx} (b : Byte) (hd : x.protoSel.dialect = .ibus) :
    classTable.find? (fun c => c.row.matches x b) = some (decodeIbus x.tag b) := by
  simp only [classTable, List.find?_cons, TransClass.row, ClassRow.matches_byte, ClassRow.matches_any, hd, decodeIbus]
  cases x.tag
  case code0 => by_cases h : b = 0x20#8 <;> simp [h, Config.ibusHdr0]
  case code1 => by_cases h : b = 0x40#8 <;> simp [h, Config.ibusHdr1]
  all_goals rfl

/-- R68: under the SBUS dialect the tag is never code 4 (U11, log 11), and the first and last tags compare the byte. -/
theorem find_classTable_sbus {x : ParseCtx} (b : Byte) (hd : x.protoSel.dialect = .sbus) (ht : x.tag ≠ .code4) :
    classTable.find? (fun c => c.row.matches x b) = some (decodeSbus x.tag b) := by
  simp only [classTable, List.find?_cons, TransClass.row, ClassRow.matches_byte, ClassRow.matches_any, hd, decodeSbus]
  cases hx : x.tag
  case code0 => by_cases h : b = 0x0F#8 <;> simp [h, Config.sbusHdr]
  case code3 => by_cases h : b = 0x00#8 <;> simp [h, Config.sbusFooter]
  case code4 => exact absurd hx ht
  all_goals rfl

/-- Settles O3: the IBus selector enters R67's rows with its own tag; every other one enters R68's, code 4 read as
code 0 on both sides (log 10, log 11). -/
theorem classDecodeIsFirstTableMatch : Obligations.ClassDecodeIsFirstTableMatch := by
  rintro ⟨active, p, st⟩ b
  by_cases hp : p = .ibus
  · subst hp
    exact find_classTable_ibus b rfl
  · have hd : p.dialect = .sbus := if_neg hp
    have hc : ParseCtx.classOf ⟨active, p, st⟩ b = decodeSbus (ParseCtx.tag ⟨active, p, st⟩) b := by
      cases st <;> simp [ParseCtx.classOf, ParseCtx.tag, hp, hd, decodeSbus]
    rw [hc]
    refine find_classTable_sbus b hd ?_
    cases st <;> simp [ParseCtx.tag, hd]

/-! ### UNPACK (R64, R65, R153) -/

/-- Byte `j` of a payload as an integer, zero beyond its end. -/
def byteAt (l : List Byte) (j : Nat) : Nat := (l[j]?.getD 0).toNat

theorem byteAt_testBit_of_le (l : List Byte) (j : Nat) {i : Nat} (h : 8 ≤ i) : (byteAt l j).testBit i = false :=
  BitVec.getLsbD_of_ge _ i h

/-- R64: bit `n` of the payload integer is bit `n % 8` of byte `n / 8`. -/
theorem payloadInt_testBit (l : List Byte) (n : Nat) :
    (payloadInt l).testBit n = (byteAt l (n / 8)).testBit (n % 8) := by
  induction l generalizing n with
  | nil => simp [payloadInt, byteAt]
  | cons x xs ih =>
    have hx : payloadInt (x :: xs) = 2 ^ 8 * payloadInt xs + x.toNat := by
      simp [payloadInt, Nat.shiftLeft_eq]; ring
    rw [hx, Nat.testBit_two_pow_mul_add _ x.isLt]
    split
    case isTrue h => simp [byteAt, Nat.div_eq_of_lt h, Nat.mod_eq_of_lt h]
    case isFalse h =>
      obtain ⟨m, rfl⟩ := Nat.exists_eq_add_of_le' (Nat.le_of_not_lt h)
      simp [ih, byteAt]

/-- The eleven bits at bit `r` of byte `j` lie in bytes `j`, `j + 1` and `j + 2`. -/
theorem payloadInt_window (l : List Byte) (j : Nat) {r : Nat} (hr : r < 8) :
    (payloadInt l >>> (8 * j + r)) &&& 0x7FF =
      (byteAt l j >>> r ||| byteAt l (j + 1) <<< (8 - r) ||| byteAt l (j + 2) <<< (16 - r)) &&& 0x7FF := by
  refine Nat.eq_of_testBit_eq fun i => ?_
  have hm : (0x7FF : Nat) = 2 ^ 11 - 1 := rfl
  simp only [hm, Nat.testBit_and, Nat.testBit_or, Nat.testBit_shiftRight, Nat.testBit_shiftLeft,
    Nat.testBit_two_pow_sub_one, payloadInt_testBit]
  by_cases hi : i < 11
  case neg => simp [hi]
  obtain h | h | h : r + i < 8 ∨ (8 ≤ r + i ∧ r + i < 16) ∨ 16 ≤ r + i := by omega
  · rw [show (8 * j + r + i) / 8 = j by omega, show (8 * j + r + i) % 8 = r + i by omega]
    have h1 : ¬ 8 - r ≤ i := by omega
    have h2 : ¬ 16 - r ≤ i := by omega
    simp [h1, h2]
  · rw [show (8 * j + r + i) / 8 = j + 1 by omega, show (8 * j + r + i) % 8 = i - (8 - r) by omega]
    have h1 : 8 - r ≤ i := by omega
    have h2 : ¬ 16 - r ≤ i := by omega
    simp [h1, h2, byteAt_testBit_of_le l j h.1]
  · rw [show (8 * j + r + i) / 8 = j + 2 by omega, show (8 * j + r + i) % 8 = i - (16 - r) by omega]
    have h1 : 8 ≤ i - (8 - r) := by omega
    have h2 : 16 - r ≤ i := by omega
    have h3 : 8 ≤ r + i := by omega
    simp [h2, byteAt_testBit_of_le l _ h1, byteAt_testBit_of_le l _ h3]

theorem unpackLane_toNat (raw : Vector Byte 22) (k : Nat) :
    (unpackLane raw k).toNat = (payloadInt raw.toList >>> (11 * k)) &&& 0x7FF :=
  Nat.mod_eq_of_lt (Nat.lt_of_le_of_lt Nat.and_le_right (by decide))

/-- R65, a row of three bytes: a lane that begins at bit `r` of byte `j`. -/
theorem unpackLane_three (raw : Vector Byte 22) {k j r : Nat} (hr : r < 8) (hk : 11 * k = 8 * j + r) :
    (unpackLane raw k).toNat = (byteAt raw.toList j >>> r ||| byteAt raw.toList (j + 1) <<< (8 - r) |||
      byteAt raw.toList (j + 2) <<< (16 - r)) &&& 0x7FF := by
  rw [unpackLane_toNat, hk, payloadInt_window _ _ hr]

/-- R65, a row of two bytes: the third byte lies above a lane that begins at bit 5 or below. -/
theorem unpackLane_two (raw : Vector Byte 22) {k j r : Nat} (hr : r ≤ 5) (hk : 11 * k = 8 * j + r) :
    (unpackLane raw k).toNat = (byteAt raw.toList j >>> r ||| byteAt raw.toList (j + 1) <<< (8 - r)) &&& 0x7FF := by
  have habove : byteAt raw.toList (j + 2) <<< (16 - r) &&& 0x7FF = 0 := by
    rw [Nat.shiftLeft_eq, Nat.and_two_pow_sub_one_eq_mod _ 11]
    exact Nat.mod_eq_zero_of_dvd (Dvd.dvd.mul_left (pow_dvd_pow 2 (by omega)) _)
  rw [unpackLane_three raw (by omega) hk, Nat.and_or_distrib_right, habove, Nat.or_zero]

/-- Settles O41: lane `k` begins at bit `11 * k % 8` of byte `11 * k / 8`; the lanes that begin at bit 6 or 7 have three
bytes. -/
theorem unpackIsTheShiftTable : Obligations.UnpackIsTheShiftTable := by
  intro raw
  have two (k : Nat) (h : 11 * k % 8 ≤ 5) := unpackLane_two raw h (Nat.div_add_mod (11 * k) 8).symm
  have three (k : Nat) (_ : 5 < 11 * k % 8) :=
    unpackLane_three raw (Nat.mod_lt (11 * k) (by decide)) (Nat.div_add_mod (11 * k) 8).symm
  simp [unpack, two, three, byteAt]

end Sys2Proof.Machine
end

section
/-! PROOFS. The ring buffer (40_ringbuffer.md): what each operation writes and answers (R90 to R95, and R113
and R175, which are RB.GET), the live entries after it, and the FIFO law over sequences of operations (R98, R99). -/

namespace Sys2Proof.Machine

/-! ### The cases of a put and a get (R90, R91) -/

theorem Fifo.put_of_full {f : Fifo} (m : RCMessage) (hfull : f.count = f.depth) :
    f.put m = ⟨f.mem.set f.wr m, (f.wr + 1) % f.depth, (f.rd + 1) % f.depth, f.count⟩ :=
  ((f.put_cases m).resolve_right fun h => h.1 hfull).2

theorem Fifo.put_of_not_full {f : Fifo} (m : RCMessage) (hroom : f.count ≠ f.depth) :
    f.put m = ⟨f.mem.set f.wr m, (f.wr + 1) % f.depth, f.rd, f.count + 1⟩ :=
  ((f.put_cases m).resolve_left fun h => hroom h.1).2

theorem Fifo.get_of_count_zero {f : Fifo} (hc : f.count = 0) : f.get = (f, none) :=
  (f.get_cases.resolve_right fun h => h.1 hc).2

theorem Fifo.get_of_count_ne_zero {f : Fifo} (hc : f.count ≠ 0) :
    f.get = (⟨f.mem, f.wr, (f.rd + 1) % f.depth, f.count - 1⟩, some (f.read f.rd)) :=
  (f.get_cases.resolve_left fun h => hc h.1).2

/-! ### What each operation writes and answers (R90 to R95) -/

/-- Settles O14: the two cases of R90. -/
theorem rbPutResult : Obligations.RbPutResult := by
  intro m s
  rw [exec_rbPut]
  by_cases hfull : s.fifo.count = s.fifo.mem.length
  · rw [Fifo.put_of_full m hfull, if_pos hfull, if_pos hfull]; rfl
  · rw [Fifo.put_of_not_full m hfull, if_neg hfull, if_neg hfull]; rfl

/-- R91, D12: RB.GET on an empty queue. -/
theorem exec_rbGet_of_count_zero {s : State} (hc : s.fifo.count = 0) :
    exec .rbGet s = .next { s with out := Outputs.zero } := by
  rw [exec_rbGet, Fifo.get_of_count_zero hc]; rfl

/-- R91, D13: RB.GET on a queue with entries. -/
theorem exec_rbGet_of_count_ne_zero {s : State} (hc : s.fifo.count ≠ 0) :
    exec .rbGet s = .next { s with
      fifo := { s.fifo with rd := (s.fifo.rd + 1) % s.fifo.depth, count := s.fifo.count - 1 }
      out := { Outputs.zero with ok := true, msg := s.fifo.read s.fifo.rd } } := by
  rw [exec_rbGet, Fifo.get_of_count_ne_zero hc]; rfl

theorem exec_getmsgfifo (s : State) : exec .getmsgfifo s = exec .rbGet s := rfl

theorem exec_getmessage_of_active {s : State} (ha : s.active = true) : exec .getmessage s = exec .rbGet s :=
  if_pos ha

/-- R175, D10: GETMESSAGE before a successful BEGIN. -/
theorem exec_getmessage_of_inactive {s : State} (ha : s.active = false) :
    exec .getmessage s = .next { s with out := Outputs.zero } :=
  if_neg (ha ▸ Bool.false_ne_true)

/-- Settles O15: GETMSGFIFO, and GETMESSAGE while ACTIVE = 1, are RB.GET, which has R91's two cases. -/
theorem queueReadResult : Obligations.QueueReadResult := by
  intro s
  refine ⟨fun hc => ?empty, exec_getmessage_of_inactive, fun hc _ => ?taken⟩
  case empty =>
    have hget := exec_rbGet_of_count_zero hc
    refine ⟨hget, (exec_getmsgfifo s).trans hget, ?_⟩
    obtain ha | ha := Bool.eq_false_or_eq_true s.active
    · exact (exec_getmessage_of_active ha).trans hget
    · exact exec_getmessage_of_inactive ha
  case taken =>
    have hget := exec_rbGet_of_count_ne_zero hc.ne'
    exact ⟨hget, (exec_getmsgfifo s).trans hget, fun ha => (exec_getmessage_of_active ha).trans hget⟩

theorem Fifo.isEmpty_eq_decide (f : Fifo) : f.isEmpty = decide (f.count = 0) := beq_eq_decide _ _

theorem Fifo.isFull_eq_decide (f : Fifo) : f.isFull = decide (f.count = f.depth) := beq_eq_decide _ _

theorem exec_rbIsempty (s : State) :
    exec .rbIsempty s = .next { s with out := { Outputs.zero with ok := s.fifo.isEmpty } } := rfl

theorem exec_rbIsfull (s : State) :
    exec .rbIsfull s = .next { s with out := { Outputs.zero with ok := s.fifo.isFull } } := rfl

theorem exec_rbCount (s : State) : exec .rbCount s = .next { s with out := { Outputs.zero with
    val := if s.fifo.count < 2 ^ 32 then BitVec.ofNat 32 s.fifo.count else Config.wideCount s.fifo.count } } := rfl

/-- Settles O16: a COUNT below 2^32 is its own residue modulo 2^32. -/
theorem rbQueriesResult : Obligations.RbQueriesResult := by
  intro s
  refine ⟨?isempty, ?isfull, _, exec_rbCount s, fun hlt => ?count⟩
  case isempty => rw [exec_rbIsempty, Fifo.isEmpty_eq_decide]
  case isfull => rw [exec_rbIsfull, Fifo.isFull_eq_decide]; rfl
  case count =>
    rw [if_pos hlt, BitVec.toNat_ofNat, Nat.mod_eq_of_lt hlt]
    exact ⟨rfl, fun ⟨_, _, _, hcount, _⟩ => hcount⟩

/-- Settles O17: `Fifo.clear` writes the two indices and the count. -/
theorem rbClearResult : Obligations.RbClearResult := fun _ => rfl

/-! ### The live entries after a put (R90, R23) -/

@[simp] theorem Fifo.length_live (f : Fifo) : f.live.length = f.count := by simp [Fifo.live]

/-- On a full buffer RB.PUT is RB.GET, its result dropped, and then RB.PUT with room. -/
theorem Fifo.put_eq_get_put_of_full (f : Fifo) (m : RCMessage) (h : f.Wf) (hfull : f.count = f.depth) :
    f.put m = f.get.1.put m := by
  have hroom := f.count_get_lt_depth h
  have hc : f.count ≠ 0 := hfull ▸ h.1.ne'
  rw [Fifo.put_of_full m hfull, Fifo.put_of_not_full m hroom.ne, Fifo.get_of_count_ne_zero hc,
    Nat.sub_add_cancel (Nat.pos_of_ne_zero hc)]
  rfl

/-- R90: RB.PUT leaves the N most recent of the entries before it and its item. -/
theorem Fifo.live_put (f : Fifo) (m : RCMessage) (h : f.Wf) :
    (f.put m).live = (f.live ++ [m]).drop (f.live.length + 1 - f.depth) := by
  have ⟨hpos, _, _, hle, _⟩ := h
  rw [Fifo.length_live]
  obtain hroom | hfull := hle.lt_or_eq
  · rw [f.live_put_of_room m h hroom, Nat.sub_eq_zero_of_le hroom, List.drop_zero]
  · have hne : f.live ≠ [] := by
      rw [← List.length_pos_iff, Fifo.length_live, hfull]; exact hpos
    rw [f.put_eq_get_put_of_full m h hfull, f.live_get_put m h, hfull, Nat.add_sub_cancel_left, List.drop_one,
      List.tail_append_of_ne_nil hne]

/-- Settles O18: `Fifo.live_put` at the FIFO that RB.PUT leaves. -/
theorem putKeepsNewest : Obligations.PutKeepsNewest := fun m s h =>
  ⟨_, exec_rbPut m s, s.fifo.live_put m h⟩

/-! ### The queue along a sequence of operations (R98, R99) -/

/-- The FIFO of `s` is well formed, has N = `n`, and its live entries are `xs`, oldest first. -/
structure State.HoldsQueue (s : State) (n : Nat) (xs : List RCMessage) : Prop where
  wf : s.fifo.Wf
  depth : s.fifo.depth = n
  live : s.fifo.live = xs

section
variable {s : State} {n : Nat} {xs : List RCMessage}

theorem State.HoldsQueue.of_empty (h : s.fifo.Wf) (hc : s.fifo.count = 0) : s.HoldsQueue s.fifo.depth [] :=
  ⟨h, rfl, s.fifo.live_of_count_zero hc⟩

theorem State.HoldsQueue.count_eq (h : s.HoldsQueue n xs) : s.fifo.count = xs.length := by
  rw [← h.live, Fifo.length_live]

theorem State.HoldsQueue.length_le (h : s.HoldsQueue n xs) : xs.length ≤ n := by
  obtain ⟨⟨_, _, _, hle, _⟩, rfl, rfl⟩ := h
  rwa [Fifo.length_live]

theorem State.HoldsQueue.rbPut (h : s.HoldsQueue n xs) (m : RCMessage) :
    (after (.rbPut m) s).HoldsQueue n ((xs ++ [m]).drop (xs.length + 1 - n)) := by
  obtain ⟨hwf, rfl, rfl⟩ := h
  exact ⟨s.fifo.put_wf m hwf, s.fifo.put_depth m, s.fifo.live_put m hwf⟩

theorem State.HoldsQueue.rbGet (h : s.HoldsQueue n xs) : (after .rbGet s).HoldsQueue n xs.tail := by
  obtain ⟨hwf, rfl, rfl⟩ := h
  have ⟨_, _, hrd, _⟩ := hwf
  exact ⟨s.fifo.get_wf hwf, s.fifo.get_depth, s.fifo.live_get hrd⟩

/-- R91 and D12: RB.GET answers true and the oldest entry, or false and zero. -/
theorem State.HoldsQueue.rbGet_answer (h : s.HoldsQueue n xs) :
    (after .rbGet s).out.ok = !xs.isEmpty ∧ (after .rbGet s).out.msg = xs.headD RCMessage.zero := by
  obtain ⟨⟨_, _, hrd, _⟩, -, rfl⟩ := h
  show s.fifo.get.2.isSome = _ ∧ s.fifo.get.2.getD RCMessage.zero = _
  rw [s.fifo.get_answer hrd]
  cases s.fifo.live <;> exact ⟨rfl, rfl⟩

/-- R94: RB.COUNT answers the number of live entries. -/
theorem State.HoldsQueue.rbCount_answer (h : s.HoldsQueue n xs) (hlt : xs.length < 2 ^ 32) :
    (after .rbCount s).out.val = BitVec.ofNat 32 xs.length := by
  rw [← h.count_eq] at hlt ⊢
  exact if_pos hlt

/-- R98: port steps keep the queue a final segment of the items put: a put adds its item to the end of both, and
whatever a put or a get removes, it removes from the front of the queue. -/
theorem State.HoldsQueue.afterAll_ports (ops : List PortOp) {ys : List RCMessage} (h : s.HoldsQueue n xs)
    (hxs : xs <:+ ys) :
    ∃ zs, (afterAll (ops.map PortOp.instr) s).HoldsQueue n zs ∧ zs <:+ ys ++ putItems ops := by
  induction ops generalizing s xs ys with
  | nil => exact ⟨xs, h, by rwa [putItems, List.append_nil]⟩
  | cons op ops ih =>
    cases op with
    | put m =>
      have hput : (xs ++ [m]).drop (xs.length + 1 - n) <:+ ys ++ [m] :=
        (List.drop_suffix _ _).trans (List.suffix_append_self_iff.mpr hxs)
      obtain ⟨zs, hq, hzs⟩ := ih (h.rbPut m) hput
      exact ⟨zs, hq, by rwa [List.append_assoc] at hzs⟩
    | get => exact ih h.rbGet ((List.tail_suffix xs).trans hxs)

end

/-- Settles O19: RB.GET's state and answer in the queue of the live entries themselves. -/
theorem getTakesOldest : Obligations.GetTakesOldest := by
  intro s h
  have hq : s.HoldsQueue s.fifo.depth s.fifo.live := ⟨h, rfl, rfl⟩
  exact ⟨_, exec_rbGet s, hq.rbGet.live, hq.rbGet_answer⟩

/-- Settles O20: the live entries are a final segment of the items put, and COUNT is its length. -/
theorem fifoLaw : Obligations.FifoLaw := by
  intro ops s h hc
  obtain ⟨zs, hq, hzs⟩ := (State.HoldsQueue.of_empty h hc).afterAll_ports ops List.suffix_rfl
  refine ⟨Fifo.length_live _, hq.count_eq ▸ hq.length_le, ?_⟩
  rw [hq.live, hq.count_eq]
  exact List.suffix_iff_eq_drop.mp hzs

/-- Settles O21: the fifth put drops the first item, and each get takes the first of the four that are left. -/
theorem fiveItemsInDepthFour : Obligations.FiveItemsInDepthFour := by
  intro s m1 m2 m3 m4 m5 h hd hc
  have h0 : s.HoldsQueue 4 [] := hd ▸ .of_empty h hc
  have hput : (afterAll [.rbPut m1, .rbPut m2, .rbPut m3, .rbPut m4, .rbPut m5] s).HoldsQueue 4 [m2, m3, m4, m5] :=
    ((((h0.rbPut m1).rbPut m2).rbPut m3).rbPut m4).rbPut m5
  have hget1 := hput.rbGet
  have hget2 := hget1.rbGet
  have hget3 := hget2.rbGet
  have hget4 := hget3.rbGet
  exact ⟨hput.rbCount_answer (by simp), hput.rbGet_answer.2, hput.rbGet_answer.1, hget1.rbGet_answer.2,
    hget2.rbGet_answer.2, hget3.rbGet_answer.2, hget3.rbGet_answer.1, hget4.rbGet_answer.1⟩

end Sys2Proof.Machine
end


section
/-! PROOFS. The parser interface (41_parser_interface.md): PARSEBYTE is the class its byte selects (R110), puts at most
one message (R117), never touches the transport (R134), and leaves the initial state on a header byte only (R115). -/

namespace Sys2Proof.Machine

/-! ### PARSEBYTE and the class its byte selects (R110, R118) -/

theorem exec_parsebyte (b : Byte) (s : State) : exec (.parsebyte b) s = answerOk (parseByte b s.clearOut) := rfl

/-- R110: PARSEBYTE performs the rule of the selected class. -/
theorem exec_parsebyte_of_classOf {c : TransClass} {b : Byte} {s : State} (ha : s.active = true)
    (hc : s.parseCtx.classOf b = c) : exec (.parsebyte b) s = answerOk (transition c b s.clearOut) := by
  rw [exec_parsebyte, parseByte_active s.clearOut b ha, ← hc]; rfl

/-- R118, D10: PARSEBYTE while ACTIVE = 0. -/
theorem exec_parsebyte_of_inactive {b : Byte} {s : State} (ha : s.active = false) :
    exec (.parsebyte b) s = .next { s with out := Outputs.zero } := by
  rw [exec_parsebyte, parseByte_inactive s.clearOut b ha]; rfl

/-- The row of the selected class matches the byte (R67, R68). -/
theorem row_classOf_matches (x : ParseCtx) (b : Byte) : (x.classOf b).row.matches x b = true :=
  List.find?_some (p := fun c : TransClass => c.row.matches x b) (classDecodeIsFirstTableMatch x b)

/-- A class's instruction runs the class on the byte; the four classes that carry no byte have it in their row. -/
theorem exec_instr_of_matches {c : TransClass} {x : ParseCtx} {b : Byte} (s : State)
    (h : c.row.matches x b = true) : exec (c.instr b) s = execClass c b s := by
  cases c
  case ibusWh0Hdr | ibusH0Hdr1 | sbusWhHdr | sbusVfOk =>
    rw [TransClass.row, ClassRow.matches_byte, decide_eq_true_eq] at h
    obtain ⟨-, rfl⟩ := h
    rfl
  all_goals rfl

/-- R110: the selected class's own instruction is PARSEBYTE. -/
theorem exec_classOf_instr {b : Byte} {s : State} (ha : s.active = true) :
    exec ((s.parseCtx.classOf b).instr b) s = exec (.parsebyte b) s := by
  rw [exec_instr_of_matches s (row_classOf_matches s.parseCtx b), execClass_selected _ b s ha rfl,
    exec_parsebyte_of_classOf ha rfl]

/-- Settles O22: both instructions run the selected class's rule. -/
theorem parsebyteRunsItsClass : Obligations.ParsebyteRunsItsClass := by
  intro s b
  refine ⟨exec_parsebyte_of_inactive, fun ha => ⟨_, exec_parsebyte b s, ?_⟩⟩
  have hctx : s.parseCtx = ⟨true, s.protoSel, s.st⟩ := by rw [State.parseCtx, ha]
  rw [← hctx]
  exact exec_classOf_instr ha

/-! ### The message PARSEBYTE puts (R117) -/

/-- R117: PARSEBYTE answers false and leaves the FIFO, or answers true and puts one message, by one of two classes. -/
theorem parseByte_fifo (b : Byte) (s : State) :
    ((parseByte b s).2 = false ∧ (parseByte b s).1.fifo = s.fifo) ∨
    ((parseByte b s).2 = true ∧ (∃ m, (parseByte b s).1.fifo = s.fifo.put m) ∧
      s.parseCtx.classOf b ∈ [TransClass.ibusCs0Ckhi, TransClass.sbusVfOk]) := by
  cases ha : s.active
  · rw [parseByte_inactive s b ha]
    exact .inl ⟨rfl, rfl⟩
  · rw [parseByte_active s b ha]
    obtain hquiet | ⟨hok, hc, hput, -⟩ | ⟨hok, hc, hput⟩ := transition_fifo (s.parseCtx.classOf b) b s
    · exact .inl hquiet
    · exact .inr ⟨hok, ⟨s.work, by rw [hput]; rfl⟩, by simp [hc]⟩
    · exact .inr ⟨hok, ⟨_, hput⟩, by simp [hc]⟩

/-- Settles O23: the two cases of `parseByte_fifo`, whose put is RB.PUT's. -/
theorem parsebyteTrueIffEnqueued : Obligations.ParsebyteTrueIffEnqueued := by
  intro s b
  refine ⟨_, exec_parsebyte b s, ?_⟩
  obtain ⟨hok, hfifo⟩ | ⟨hok, ⟨m, hfifo⟩, hclass⟩ := parseByte_fifo b s.clearOut
  · exact ⟨fun _ => hfifo, fun h => absurd (hok.symm.trans h) Bool.false_ne_true⟩
  · refine ⟨fun h => absurd (h.symm.trans hok) Bool.false_ne_true, fun _ => ⟨⟨m, ?_⟩, hclass⟩⟩
    rw [State.clearOut_fifo] at hfifo
    rw [exec_rbPut, ← hfifo]

/-! ### The registers PARSEBYTE does not touch (R110, R134) -/

/-- `s` with the transport's registers, the time bases and the byte source of `u`. -/
def State.withTransport (s u : State) : State :=
  { s with baud := u.baud, timeoutMs := u.timeoutMs, idleUs := u.idleUs, lastMsgMs := u.lastMsgMs
           lastByteUs := u.lastByteUs, nowUs := u.nowUs, nowMs := u.nowMs, expectStart := u.expectStart, src := u.src }

/-- Every rule writes what it writes whatever the transport holds; IBUS.CS0.CKHI's test reads CK_LO and CKSUM only. -/
theorem transition_withTransport (c : TransClass) (b : Byte) (s u : State) :
    transition c b (s.withTransport u) = ((transition c b s).1.withTransport u, (transition c b s).2) := by
  cases c
  case ibusCs0Ckhi =>
    exact (apply_ite (fun r : State × Bool => (r.1.withTransport u, r.2))
      (receivedChecksum b s.ckLo = s.cksum)
      (s.parserNotify.resetParser, true) (s.resync .checksumMismatch, false)).symm
  all_goals rfl

theorem parseByte_withTransport (b : Byte) (s u : State) :
    parseByte b (s.withTransport u) = ((parseByte b s).1.withTransport u, (parseByte b s).2) := by
  cases ha : s.active
  · rw [parseByte_inactive s b ha, parseByte_inactive (s.withTransport u) b ha]
  · rw [parseByte_active s b ha, parseByte_active (s.withTransport u) b ha]
    exact transition_withTransport (s.parseCtx.classOf b) b s u

/-- Settles O24: PARSEBYTE clears the outputs, and `parseByte` commutes with `withTransport`. -/
theorem parsebyteIgnoresTransport : Obligations.ParsebyteIgnoresTransport := by
  intro s b baud tmo idle lm lb us ms e xs
  refine ⟨_, exec_parsebyte b s, ?_⟩
  exact congrArg answerOk (parseByte_withTransport b s.clearOut
    { s with baud := baud, timeoutMs := tmo, idleUs := idle, lastMsgMs := lm, lastByteUs := lb,
             nowUs := us, nowMs := ms, expectStart := e, src := xs })

/-! ### The header byte (R115) -/

/-- The first two rows of R67. -/
theorem classOf_ibus_initial {s : State} (b : Byte) (hp : s.protoSel = .ibus) (hst : s.st = .initial) :
    s.parseCtx.classOf b = if b = 0x20 then .ibusWh0Hdr else .ibusWh0Skip := by
  rw [classOf_ibus s b hp, hst]; rfl

/-- The first two rows of R68. -/
theorem classOf_sbus_initial {s : State} (b : Byte) (hp : s.protoSel = .sbus) (hst : s.st = .initial) :
    s.parseCtx.classOf b = if b = 0x0F then .sbusWhHdr else .sbusWhSkip := by
  rw [classOf_sbus s b hp, hst]; rfl

/-- Settles O28: in each protocol's initial state, a byte selects the header class or the skipping one. -/
theorem onlyHeaderLeavesInitialState : Obligations.OnlyHeaderLeavesInitialState := by
  intro s b ha hst
  refine ⟨fun hp hb => ?ibusSkip, fun hp hb => ?sbusSkip, fun hp hb => ?ibusHeader, fun hp hb => ?sbusHeader⟩
  case ibusSkip => exact exec_parsebyte_of_classOf ha ((classOf_ibus_initial b hp hst).trans (if_neg hb))
  case sbusSkip => exact exec_parsebyte_of_classOf ha ((classOf_sbus_initial b hp hst).trans (if_neg hb))
  case ibusHeader => exact ⟨_, exec_parsebyte_of_classOf ha ((classOf_ibus_initial b hp hst).trans (if_pos hb)), rfl⟩
  case sbusHeader => exact ⟨_, exec_parsebyte_of_classOf ha ((classOf_sbus_initial b hp hst).trans (if_pos hb)), rfl⟩

/-! ### RESETPARSER, LISTENER, PARSERNOTIFY (R111, R112, R114) -/

/-- Settles O25: `State.resetParser` writes the fields of R111. -/
theorem resetparserResult : Obligations.ResetparserResult := fun _ => rfl

/-- Settles O26: LISTENER is the negation of RB.ISEMPTY's test (R92). -/
theorem listenerResult : Obligations.ListenerResult := by
  intro s
  have hne : decide (s.fifo.count ≠ 0) = !s.fifo.isEmpty := by rw [Fifo.isEmpty_eq_decide, decide_not]
  rw [hne]
  rfl

theorem exec_parsernotify (s : State) : exec .parsernotify s = exec (.rbPut s.work) s := rfl

/-- Settles O27: PARSERNOTIFY is RB.PUT of WORK, which writes the FIFO only. -/
theorem parsernotifyResult : Obligations.ParsernotifyResult := by
  intro s
  have hput := exec_rbPut s.work s
  exact ⟨_, (exec_parsernotify s).trans hput, hput, rfl, rfl⟩

end Sys2Proof.Machine
end

section
/-! PROOFS. The IBus transitions (42_ibus.md R126 to R132), each in an active IBus framer, and what the invariant
says of the last one (R133, R137, R138). -/

namespace Sys2Proof.Machine

/-! ### The seven classes (R126 to R132) -/

/-- In an active IBus framer a class that R67 selects runs its rule. -/
theorem execClass_ibus {c : TransClass} {b : Byte} {s : State} (ha : s.active = true) (hp : s.protoSel = .ibus)
    (hc : decodeIbus s.st b = c) : execClass c b s = answerOk (transition c b s.clearOut) :=
  execClass_selected c b s ha ((classOf_ibus s b hp).trans hc)

/-- Settles O29: the header byte selects the class in the initial state. -/
theorem ibusWh0HdrResult : Obligations.IbusWh0HdrResult := by
  intro s ha hp hst
  have hc : decodeIbus s.st Config.ibusHdr0 = .ibusWh0Hdr := by rw [hst]; rfl
  exact execClass_ibus ha hp hc

/-- Settles O30: the tag and the byte select the class in each clause. -/
theorem ibusSkipHeaderResyncResult : Obligations.IbusSkipHeaderResyncResult := by
  intro s b ha hp
  refine ⟨fun hst hb => ?skip, fun hst => ?header, fun hst hb => ?resync⟩
  case skip =>
    have hc : decodeIbus s.st b = .ibusWh0Skip := by rw [hst]; exact if_neg hb
    exact execClass_ibus ha hp hc
  case header =>
    have hc : decodeIbus s.st Config.ibusHdr1 = .ibusH0Hdr1 := by rw [hst]; rfl
    exact execClass_ibus ha hp hc
  case resync =>
    have hc : decodeIbus s.st b = .ibusH0Resync := by rw [hst]; exact if_neg hb
    exact execClass_ibus ha hp hc

/-- A channel after the data byte at frame offset `c` (R130 lines 2 and 3, R61). -/
theorem getElem_writeLane (ch : Vector Half 16) (c : BitVec 6) (b : Byte) (h1 : 2 ≤ c.toNat) (h2 : c.toNat ≤ 29)
    {j : Nat} (hj : j < 16) :
    (writeLane ch (c + 1) b)[j] =
      if (c.toNat - 2) / 2 = j then withLane ch[j] (decide (c.toNat % 2 = 0)) b else ch[j] := by
  have hk : (c.toNat - 2) / 2 < 16 := by omega
  simp only [writeLane, channelIndex_succ c h1, isLowLane_succ c, hk, dite_true, Vector.getElem_set]
  split
  case isTrue h => subst h; rfl
  case isFalse => rfl

theorem succ_eq_thirty_iff (c : BitVec 6) : c + 1 = 30 ↔ c = 29 := add_left_inj (1 : BitVec 6) (b := c) (c := 29)

/-- Settles O31: the byte's own lane is the low one at an even offset and the high one at an odd offset. -/
theorem ibusH1DataResult : Obligations.IbusH1DataResult := by
  intro s b ha hp hst h1 h2
  have hc : decodeIbus s.st b = .ibusH1Data := by rw [hst]; rfl
  refine ⟨writeLane s.work.channels (s.cnt + 1) b, ?next, fun j =>
    ⟨fun hlow => ?low, fun hhigh => ?high, fun hnlow hnhigh => ?other⟩⟩
  case next =>
    have hst' : (if s.cnt + 1 = 30 then Tag.hasFrame else s.st) = if s.cnt = 29 then .hasFrame else .hasHeader1 := by
      simp only [succ_eq_thirty_iff, hst]
    rw [← hst']
    exact execClass_ibus ha hp hc
  all_goals refine (getElem_writeLane _ _ b h1 h2 j.isLt).trans ?_
  case low => rw [if_pos (by omega), decide_eq_true (by omega)]; rfl
  case high => rw [if_pos (by omega), decide_eq_false (by omega)]; rfl
  case other => exact if_neg (by omega)

/-- Settles O32: HasFrame selects the class whatever the byte. -/
theorem ibusHfCkloResult : Obligations.IbusHfCkloResult := by
  intro s b ha hp hst
  have hc : decodeIbus s.st b = .ibusHfCklo := by rw [hst]; rfl
  exact execClass_ibus ha hp hc

/-- R132 when the received checksum matches. -/
theorem ibusCs0Ckhi_of_eq {b : Byte} {s : State} (h : b ++ s.ckLo = s.cksum) :
    ibusCs0Ckhi b s = (s.parserNotify.resetParser, true) := if_pos h

/-- R132 when it does not. -/
theorem ibusCs0Ckhi_of_ne {b : Byte} {s : State} (h : b ++ s.ckLo ≠ s.cksum) :
    ibusCs0Ckhi b s = (s.resync .checksumMismatch, false) := if_neg h

/-- Settles O33: the two outcomes of the comparison. -/
theorem ibusCs0CkhiResult : Obligations.IbusCs0CkhiResult := by
  intro s b ha hp hst
  have hc : decodeIbus s.st b = .ibusCs0Ckhi := by rw [hst]; rfl
  have hrun : exec (.ibusCs0Ckhi b) s = answerOk (ibusCs0Ckhi b s.clearOut) := execClass_ibus ha hp hc
  refine ⟨fun hmatch => ?_, fun hne => ?_⟩
  · rw [hrun, ibusCs0Ckhi_of_eq (s := s.clearOut) hmatch]; rfl
  · rw [hrun, ibusCs0Ckhi_of_ne (s := s.clearOut) hne]; rfl

/-! ### The last byte under the invariant (R133, R137, R138) -/

/-- Settles O34: the invariant's running checksum is the one of R62. -/
theorem ibusAcceptsIffChecksumMatches : Obligations.IbusAcceptsIffChecksumMatches := by
  intro s b hinv ha hp hst
  obtain ⟨-, -, -, -, hibus, -⟩ := hinv
  obtain ⟨-, -, -, -, -, -, -, hlast⟩ := hibus ha hp
  obtain ⟨-, hck, -⟩ := hlast hst
  have hsum : s.cksum = 0xFFFF - (0x20 + 0x40 + laneSum s.work.channels) := by rw [hck]; ring
  have hc : s.parseCtx.classOf b = .ibusCs0Ckhi := by rw [classOf_ibus s b hp, hst]; rfl
  refine ⟨_, exec_parsebyte_of_classOf ha hc, ?_⟩
  rw [← hsum]
  show (ibusCs0Ckhi b s.clearOut).2 = true ↔ b ++ s.ckLo = s.cksum
  by_cases h : b ++ s.ckLo = s.cksum
  · simp [ibusCs0Ckhi_of_eq (s := s.clearOut) h, h]
  · simp [ibusCs0Ckhi_of_ne (s := s.clearOut) h, h]

/-- A channel is its high lane and its low lane (R45). -/
theorem append_lanes (v : Half) : v.extractLsb' 8 8 ++ v.extractLsb' 0 8 = v :=
  BitVec.extractLsb'_append_extractLsb'_eq_extractLsb' (by rfl) |>.trans (by simp)

theorem eq_zero_of_lanes {v : Half} (hlow : v.extractLsb' 0 8 = 0) (hhigh : v.extractLsb' 8 8 = 0) : v = 0 := by
  rw [← append_lanes v, hlow, hhigh]; rfl

/-- R67: only the tag HasCheckSum0 selects the class that may accept. -/
theorem decodeIbus_eq_ckhi {st : Tag} {b : Byte} (h : decodeIbus st b = .ibusCs0Ckhi) : st = .hasCheckSum0 := by
  cases st
  case code0 | code1 => simp only [decodeIbus] at h; split at h <;> cases h
  case code4 => rfl
  all_goals cases h

/-- R67: no IBus tag selects an SBUS class. -/
theorem decodeIbus_ne_sbusVfOk (st : Tag) (b : Byte) : decodeIbus st b ≠ .sbusVfOk := by
  cases st
  case code0 | code1 => simp only [decodeIbus]; split <;> nofun
  all_goals nofun

/-- Settles O35: an accepting byte puts WORK, whose flags and channels 14 and 15 the invariant has at zero. -/
theorem ibusMessagesHaveNoFlags : Obligations.IbusMessagesHaveNoFlags := by
  intro s b hinv ha hp
  refine ⟨_, exec_parsebyte_of_classOf ha rfl, fun hok => ?_⟩
  have hclass : s.parseCtx.classOf b = decodeIbus s.st b := classOf_ibus s b hp
  obtain ⟨hno, -⟩ | ⟨-, hc, hput, -⟩ | ⟨-, hc, -⟩ := transition_fifo (s.parseCtx.classOf b) b s.clearOut
  · exact absurd (hno.symm.trans hok) Bool.false_ne_true
  · obtain ⟨-, -, -, -, hibus, -⟩ := hinv
    obtain ⟨-, -, hflags, -, -, -, -, hlast⟩ := hibus ha hp
    obtain ⟨-, -, hclear⟩ := hlast (decodeIbus_eq_ckhi (hclass.symm.trans hc))
    have hzero (k : Fin 16) (hk : 14 ≤ k.val) : s.work.channels[k] = 0 :=
      eq_zero_of_lanes ((hclear k).1 (by omega)) ((hclear k).2 (by omega))
    exact ⟨s.work, congrArg State.fifo hput, hflags, hzero 14 (by decide), hzero 15 (by decide)⟩
  · exact absurd (hclass.symm.trans hc) (decodeIbus_ne_sbusVfOk s.st b)

end Sys2Proof.Machine
end

section
/-! PROOFS. The parser leaves a partial frame: CNT counts the bytes of the candidate accepted so far (R15), and each
further byte either ends the candidate or adds one to it (R136, R158). -/

namespace Sys2Proof.Machine

/-- The bytes of a frame on the wire (R60, R63). -/
def frameLength (p : Proto) : Nat := if p = .ibus then 32 else 25

/-! ### The count of accepted bytes (R15, R29) -/

/-- R29: mid-frame, at least the header byte has been accepted and at least one byte is missing. -/
def State.CountsFrame (s : State) : Prop := 1 ≤ s.cnt.toNat ∧ s.cnt.toNat < frameLength s.protoSel

theorem State.IbusInv.countsFrame {s : State} (h : s.IbusInv) (hp : s.protoSel = .ibus) (hne : s.st ≠ .initial) :
    s.CountsFrame := by
  obtain ⟨-, -, -, -, h0, h1, hf, hc⟩ := h
  rw [State.CountsFrame, hp]
  cases hst : s.st
  case code0 => exact absurd hst hne
  case code1 => rw [(h0 hst).1]; decide
  case code2 =>
    obtain ⟨hlo, hhi, -⟩ := h1 hst
    exact ⟨Nat.le_of_succ_le hlo, Nat.lt_of_le_of_lt hhi (by decide)⟩
  case code3 => rw [(hf hst).1]; decide
  case code4 => rw [(hc hst).1]; decide

theorem State.SbusInv.countsFrame {s : State} (h : s.SbusInv) (hp : s.protoSel = .sbus) (hne : s.st ≠ .initial) :
    s.CountsFrame := by
  obtain ⟨-, -, -, -, hacc, hrf, hvf, hunused⟩ := h
  rw [State.CountsFrame, hp]
  cases hst : s.st
  case code0 => exact absurd hst hne
  case code1 =>
    obtain ⟨hlo, hhi, -⟩ := hacc hst
    exact ⟨hlo, Nat.lt_of_le_of_lt hhi (by decide)⟩
  case code2 => rw [(hrf hst).1]; decide
  case code3 => rw [hvf hst]; decide
  case code4 => exact absurd hst hunused

theorem State.Inv.countsFrame {s : State} (h : s.Inv) (ha : s.active = true) (hne : s.st ≠ .initial) :
    s.CountsFrame := by
  obtain ⟨-, -, -, hsel, hibus, hsbus⟩ := h
  obtain hp | hp := hsel ha
  · exact (hibus ha hp).countsFrame hp hne
  · exact (hsbus ha hp).countsFrame hp hne

/-! ### One further byte -/

/-- From `s` to `t` the candidate ends, or one more of its bytes is accepted. -/
def State.EndsOrCounts (s t : State) : Prop := t.st = .initial ∨ t.cnt.toNat = s.cnt.toNat + 1

theorem ibusTransition_endsOrCounts {s : State} (b : Byte) (h : s.IbusInv) (hne : s.st ≠ .initial) :
    s.EndsOrCounts (transition (decodeIbus s.st b) b s).1 := by
  obtain ⟨-, -, -, -, h0, h1, hf, -⟩ := h
  cases hst : s.st <;> simp only [decodeIbus]
  case code0 => exact absurd hst hne
  case code1 =>
    split
    · exact .inr (by rw [(h0 hst).1]; rfl)
    · exact .inl rfl
  case code2 =>
    obtain ⟨-, hhi, -⟩ := h1 hst
    exact .inr (cnt_succ_toNat s.cnt (hhi.trans (by decide)))
  case code3 => exact .inr (by rw [(hf hst).1]; rfl)
  case code4 =>
    simp only [transition, ibusCs0Ckhi]
    split <;> exact .inl rfl

theorem sbusTransition_endsOrCounts {s : State} (b : Byte) (h : s.SbusInv) (hne : s.st ≠ .initial) :
    s.EndsOrCounts (transition (decodeSbus s.st b) b s).1 := by
  obtain ⟨-, -, -, -, hacc, hrf, -, hunused⟩ := h
  cases hst : s.st <;> simp only [decodeSbus]
  case code0 => exact absurd hst hne
  case code1 =>
    obtain ⟨-, hhi, -⟩ := hacc hst
    exact .inr (cnt_succ_toNat s.cnt (hhi.trans (by decide)))
  case code2 => exact .inr (by rw [(hrf hst).1]; rfl)
  case code3 => split <;> exact .inl rfl
  case code4 => exact absurd hst hunused

theorem parseByte_endsOrCounts {s : State} (b : Byte) (h : s.Inv) (ha : s.active = true) (hne : s.st ≠ .initial) :
    s.EndsOrCounts (parseByte b s).1 := by
  obtain ⟨-, -, -, hsel, hibus, hsbus⟩ := h
  rw [parseByte_active s b ha]
  obtain hp | hp := hsel ha
  · rw [classOf_ibus s b hp]
    exact ibusTransition_endsOrCounts b (hibus ha hp) hne
  · rw [classOf_sbus s b hp]
    exact sbusTransition_endsOrCounts b (hsbus ha hp) hne

/-! ### All the missing bytes -/

theorem after_parsebyte_inv {s : State} (b : Byte) (h : s.Inv) : (after (.parsebyte b) s).Inv :=
  (parseByte_inv s.clearOut b h.clearOut).withOut _

theorem parseByte_configuration (b : Byte) (s : State) : (parseByte b s).1.configuration = s.configuration := by
  rw [parseByte_frame]; rfl

/-- As many bytes as the candidate misses bring the parser to its initial state. -/
theorem returns_within_missing {s : State} {bs : List Byte} (h : s.Inv) (ha : s.active = true)
    (hmiss : s.st ≠ .initial → frameLength s.protoSel ≤ s.cnt.toNat + bs.length) :
    ∃ k, k ≤ bs.length ∧ (afterBytes (bs.take k) s).st = .initial := by
  induction bs generalizing s with
  | nil => exact ⟨0, le_rfl, by_contra fun hne => absurd (h.countsFrame ha hne).2 (Nat.not_lt.mpr (hmiss hne))⟩
  | cons b bs ih =>
    by_cases hst : s.st = .initial
    · exact ⟨0, Nat.zero_le _, hst⟩
    have hcfg : (after (.parsebyte b) s).configuration = s.configuration := parseByte_configuration b s.clearOut
    have hactive : (after (.parsebyte b) s).active = true := (congrArg Prod.fst hcfg).trans ha
    have hproto : (after (.parsebyte b) s).protoSel = s.protoSel := congrArg (fun c => c.2.1) hcfg
    have hmiss' (hne : (after (.parsebyte b) s).st ≠ .initial) :
        frameLength (after (.parsebyte b) s).protoSel ≤ (after (.parsebyte b) s).cnt.toNat + bs.length := by
      have hcnt : (after (.parsebyte b) s).cnt.toNat = s.cnt.toNat + 1 :=
        (parseByte_endsOrCounts b h.clearOut ha hst).resolve_left hne
      rw [hproto, hcnt, Nat.add_assoc, Nat.add_comm 1]
      exact hmiss hst
    obtain ⟨k, hk, hend⟩ := ih (after_parsebyte_inv b h) hactive hmiss'
    exact ⟨k + 1, Nat.succ_le_succ hk, hend⟩

/-- Settles O46: mid-frame one byte is accepted already, so 31 or 24 are missing at most. -/
theorem parserReturnsToInitialState : Obligations.ParserReturnsToInitialState := by
  intro s bs h ha
  have hcount (hne : s.st ≠ .initial) : 1 ≤ s.cnt.toNat := (h.countsFrame ha hne).1
  refine ⟨fun hp hlen => ?ibus, fun hp hlen => ?sbus⟩ <;> rw [← hlen] <;>
    refine returns_within_missing h ha fun hne => ?_
  case ibus => rw [hp, hlen]; exact Nat.add_le_add_right (hcount hne) 31
  case sbus => rw [hp, hlen]; exact Nat.add_le_add_right (hcount hne) 24

end Sys2Proof.Machine
end

section
/-! PROOFS. UPDATE over buffered bytes with no idle gap is PARSEBYTE of each byte and the time stamps of the last one
(R172, R173, R134). -/

namespace Sys2Proof.Machine

/-! ### Runs of PARSEBYTE -/

/-- PARSEBYTE of each byte in turn leads from the first state to the second; the last byte answers `ok`, every byte
before it false. -/
inductive ParseRun : List Byte → State → State → Bool → Prop
  | last {b : Byte} {s t : State} {ok : Bool} (hb : parseByte b s = (t, ok)) : ParseRun [b] s t ok
  | cons {b : Byte} {bs : List Byte} {s t u : State} {ok : Bool} (hb : parseByte b s = (t, false))
      (hbs : ParseRun bs t u ok) : ParseRun (b :: bs) s u ok

theorem ParseRun.append {bs cs : List Byte} {s t u : State} {ok : Bool} (h : ParseRun bs s t false)
    (h' : ParseRun cs t u ok) : ParseRun (bs ++ cs) s u ok := by
  generalize hno : false = no at h
  induction h with
  | last hb => subst hno; exact .cons hb h'
  | cons hb _ ih => exact .cons hb (ih h' hno)

theorem parseByte_keeps_active {b : Byte} {s t : State} {ok : Bool} (h : parseByte b s = (t, ok)) :
    t.active = s.active := by
  have hcfg := parseByte_configuration b s
  rw [h] at hcfg
  exact congrArg Prod.fst hcfg

/-! ### The time stamps -/

/-- `u` with the time samples of the byte `x` and LAST_BYTE_US at them (R172 line 3). -/
def State.stampedAt (u : State) (x : SrcByte) : State := (u.atTime x.nowUs x.nowMs).stampByte

/-- `u` after RXBYTE of each of the bytes `xs`, at least one, the last of which answers `ok` (R172 lines 3 and 6). -/
def State.heard (u : State) (xs : List SrcByte) (ok : Bool) : State :=
  let time := lastSample (u.nowUs, u.nowMs) xs
  { u with
    lastByteUs := time.1, nowUs := time.1, nowMs := time.2
    lastMsgMs := if ok then time.2 else u.lastMsgMs }

/-- R172 lines 5 to 7: `feed` is PARSEBYTE on the parser and the stamp of an accepted byte on the transport. -/
theorem feed_withTransport {b : Byte} {s t : State} {ok : Bool} (h : parseByte b s = (t, ok)) (u : State) :
    feed b (s.withTransport u) =
      (t.withTransport { u with lastMsgMs := if ok then u.nowMs else u.lastMsgMs }, ok) := by
  rw [feed_eq, parseByte_withTransport, h]
  rfl

/-- R172 line 2: a byte within the threshold is no idle gap. -/
theorem idleGap_atTime_of_quiet {u : State} {x : SrcByte} {xs : List SrcByte}
    (hq : quiet u.idleUs u.lastByteUs (x :: xs) = true) : (u.atTime x.nowUs x.nowMs).idleGap = false := by
  simp only [quiet, Bool.and_eq_true] at hq
  obtain ⟨hx, -⟩ := hq
  rw [Bool.or_eq_true, beq_iff_eq, Bool.not_eq_true'] at hx
  obtain hoff | hle := hx
  · simp [State.idleGap, hoff]
  · simp [State.idleGap, exceeds, elapsed32, hle]

/-- RXBYTE of a byte with no idle gap before it. -/
theorem rxByte_withTransport {x : SrcByte} {xs : List SrcByte} {s t u : State} {ok : Bool} (ha : s.active = true)
    (he : u.expectStart = false) (hq : quiet u.idleUs u.lastByteUs (x :: xs) = true)
    (h : parseByte x.byte s = (t, ok)) :
    (rxByte x.byte ((s.withTransport u).atTime x.nowUs x.nowMs)).1 =
      t.withTransport { u.stampedAt x with lastMsgMs := if ok then x.nowMs else u.lastMsgMs } := by
  have hgap : ((s.withTransport u).atTime x.nowUs x.nowMs).idleGap = false := idleGap_atTime_of_quiet hq
  rw [rxByte_quiet x.byte ((s.withTransport u).atTime x.nowUs x.nowMs) ha he hgap]
  exact congrArg Prod.fst (feed_withTransport h (u.stampedAt x))

/-- R173: the loop of UPDATE over bytes with no idle gap. -/
theorem drain_parseRun {bs : List Byte} {s t : State} {ok : Bool} (h : ParseRun bs s t ok) (xs : List SrcByte)
    (u : State) (hxs : xs.map (fun x => x.byte) = bs) (ha : s.active = true) (he : u.expectStart = false)
    (hq : quiet u.idleUs u.lastByteUs xs = true) :
    drain xs (s.withTransport u) = t.withTransport (u.heard xs ok) := by
  induction h generalizing xs u with
  | last hb =>
    obtain ⟨x, rfl, rfl⟩ := List.map_eq_singleton_iff.mp hxs
    exact rxByte_withTransport ha he hq hb
  | cons hb _ ih =>
    obtain ⟨x, xs, rfl, rfl, hbs⟩ := List.map_eq_cons_iff.mp hxs
    have hq' : quiet u.idleUs x.nowUs xs = true := (Bool.and_eq_true_iff.mp hq).2
    have hfirst := rxByte_withTransport ha he hq hb
    rw [drain, hfirst]
    exact ih xs (u.stampedAt x) hbs ((parseByte_keeps_active hb).trans ha) he hq'

/-- UPDATE of buffered bytes with no idle gap is their run through the parser. -/
theorem exec_update_of_parseRun {s t : State} {ok : Bool} (ha : s.active = true) (he : s.expectStart = false)
    (hq : quiet s.idleUs s.lastByteUs s.src = true)
    (h : ParseRun (s.src.map fun x => x.byte) s.clearOut t ok) :
    exec .update s = .next (t.withTransport ({ s with src := [] }.heard s.src ok)) :=
  (if_pos ha).trans (congrArg answerNone (drain_parseRun h s.src { s with src := [] } rfl ha he hq))

end Sys2Proof.Machine
end

section
/-! PROOFS. An IBus frame candidate, any 32 bytes that begin with the two header bytes, from the initial state: it is
accepted or dropped by its checksum (R139, R60 to R62). -/

namespace Sys2Proof.Machine

/-! ### The running checksum (R62) -/

theorem runningChecksum_concat (bs : List Byte) (b : Byte) :
    runningChecksum (bs ++ [b]) = runningChecksum bs - b.setWidth 16 := by
  simp [runningChecksum]

theorem runningChecksum_eq_sub_sum (bs : List Byte) :
    runningChecksum bs = 0xFFFF - (bs.map (BitVec.setWidth 16)).sum := by
  induction bs using List.reverseRecOn with
  | nil => rfl
  | append_singleton bs b ih => simp [runningChecksum_concat, ih]; ring

theorem setWidth_half_injective {a b : Byte} (h : a.setWidth 16 = b.setWidth 16) : a = b := by
  have h' := congrArg (BitVec.setWidth 8) h
  simpa using h'

/-- R62: a change of one byte changes the checksum. -/
theorem runningChecksum_set_ne {bs : List Byte} {i : Nat} (hi : i < bs.length) {v : Byte} (hv : bs[i] ≠ v) :
    runningChecksum (bs.set i v) ≠ runningChecksum bs := by
  intro h
  rw [runningChecksum_eq_sub_sum, runningChecksum_eq_sub_sum, sub_right_inj, List.map_set, List.sum_set'] at h
  have hdiff : -(bs[i].setWidth 16) + v.setWidth 16 = 0 := by simpa [hi] using h
  exact hv (setWidth_half_injective (neg_add_eq_zero.mp hdiff))

/-! ### The channels of the bytes accepted so far (R61, R42) -/

theorem getElem_ibusChannels (d : Vector Byte 28) {j : Nat} (hj : j < 16) :
    (ibusChannels d)[j] = if h : j < 14 then d[2 * j + 1] ++ d[2 * j] else 0 := by
  interval_cases j <;> rfl

/-- R130: the data byte at frame offset `c` is channel byte `c - 2`. -/
theorem writeLane_ibusChannels (d : Vector Byte 28) (c : BitVec 6) (b : Byte) (h1 : 2 ≤ c.toNat)
    (h2 : c.toNat ≤ 29) :
    writeLane (ibusChannels d) (c + 1) b = ibusChannels (d.set (c.toNat - 2) b (by omega)) := by
  ext1 j hj
  rw [getElem_writeLane _ c b h1 h2 hj, getElem_ibusChannels _ hj, getElem_ibusChannels _ hj]
  by_cases hk : j < 14
  case neg => rw [if_neg (by omega), dif_neg hk, dif_neg hk]
  simp only [hk, dite_true, Vector.getElem_set]
  by_cases hlow : c.toNat - 2 = 2 * j
  · have hodd : c.toNat - 2 ≠ 2 * j + 1 := by omega
    rw [if_pos (by omega), if_neg hodd, if_pos hlow, decide_eq_true (by omega)]
    simp [withLane, append_high]
  · by_cases hhigh : c.toNat - 2 = 2 * j + 1
    · rw [if_pos (by omega), if_pos hhigh, if_neg hlow, decide_eq_false (by omega)]
      simp [withLane, append_low]
    · rw [if_neg (by omega), if_neg hhigh, if_neg hlow]

theorem toList_take_succ (d : Vector Byte 28) {n : Nat} (hn : n < 28) :
    d.toList.take (n + 1) = d.toList.take n ++ [d[n]] := by
  rw [List.take_succ_eq_append_getElem (by simpa using hn)]
  simp

/-- The first `n` channel bytes of a frame, the others still 0. -/
def firstBytes (d : Vector Byte 28) (n : Nat) : Vector Byte 28 := Vector.ofFn fun i => if i.val < n then d[i] else 0

theorem firstBytes_succ (d : Vector Byte 28) {n : Nat} (hn : n < 28) :
    firstBytes d (n + 1) = (firstBytes d n).set n d[n] := by
  ext1 i hi
  simp only [firstBytes, Vector.getElem_ofFn, Vector.getElem_set, Fin.getElem_fin]
  obtain h | h | h := Nat.lt_trichotomy i n
  · rw [if_pos (by omega), if_neg (by omega), if_pos h]
  · subst h; simp
  · rw [if_neg (by omega), if_neg (by omega), if_neg (by omega)]

theorem firstBytes_all (d : Vector Byte 28) : firstBytes d 28 = d := by
  ext1 i hi
  simp [firstBytes]

/-- R138: before the first channel byte WORK is MSG_ZERO. -/
theorem ibusMessage_firstBytes_zero (d : Vector Byte 28) : ibusMessage (firstBytes d 0) = RCMessage.zero := by
  have hzero : firstBytes d 0 = Vector.replicate 28 0 := by ext1 i hi; simp [firstBytes]
  rw [hzero]; decide

/-! ### The candidate, byte by byte (R126, R128, R130 to R132) -/

/-- In an active IBus framer PARSEBYTE performs the rule that R67 selects. -/
theorem parseByte_ibus {c : TransClass} {b : Byte} {s : State} (ha : s.active = true) (hp : s.protoSel = .ibus)
    (hc : decodeIbus s.st b = c) : parseByte b s = transition c b s := by
  rw [parseByte_active s b ha, classOf_ibus s b hp, hc]

/-- `s` with the header bytes and the first `n` channel bytes of a frame accepted. -/
def State.withIbusData (s : State) (d : Vector Byte 28) (n : Nat) : State :=
  { s with
    st := if n = 28 then .hasFrame else .hasHeader1
    cnt := BitVec.ofNat 6 (n + 2)
    cksum := runningChecksum ([0x20, 0x40] ++ d.toList.take n)
    work := ibusMessage (firstBytes d n) }

section
variable {s : State} (ha : s.active = true) (hp : s.protoSel = .ibus) (d : Vector Byte 28)
include ha hp

/-- R130: one channel byte. -/
theorem parseByte_withIbusData {n : Nat} (hn : n < 28) :
    parseByte d[n] (s.withIbusData d n) = (s.withIbusData d (n + 1), false) := by
  have hst : (s.withIbusData d n).st = .hasHeader1 := if_neg hn.ne
  have hc : decodeIbus (s.withIbusData d n).st d[n] = .ibusH1Data := by rw [hst]; rfl
  have hnat : (BitVec.ofNat 6 (n + 2)).toNat = n + 2 := by simp; omega
  have hcnt : BitVec.ofNat 6 (n + 2) + 1 = BitVec.ofNat 6 (n + 3) := (BitVec.ofNat_add (n + 2) 1).symm
  have hlast : BitVec.ofNat 6 (n + 3) = 30 ↔ n + 1 = 28 := by
    rw [← BitVec.toNat_inj, ← hcnt, cnt_succ_toNat _ (by omega), hnat]
    exact Nat.add_right_cancel_iff (n := 2)
  have hch : writeLane (ibusChannels (firstBytes d n)) (BitVec.ofNat 6 (n + 3)) d[n] =
      ibusChannels (firstBytes d (n + 1)) := by
    rw [← hcnt, writeLane_ibusChannels _ _ _ (by omega) (by omega), firstBytes_succ d hn]
    simp only [hnat, Nat.add_sub_cancel]
  have hck : runningChecksum ([0x20, 0x40] ++ d.toList.take n) - d[n].setWidth 16 =
      runningChecksum ([0x20, 0x40] ++ d.toList.take (n + 1)) := by
    rw [← runningChecksum_concat, List.append_assoc, toList_take_succ d hn]
  rw [parseByte_ibus (s := s.withIbusData d n) ha hp hc]
  simp only [transition, ibusH1Data, hst]
  simp only [State.withIbusData, ibusMessage, hch, hck, hcnt, hlast]

/-- R126, R128: the two header bytes, from the initial state with every scratch register reset. -/
theorem parseRun_ibusHeaders (hst : s.st = .initial) (hs : s.ScratchReset) :
    ParseRun [0x20, 0x40] s (s.withIbusData d 0) false := by
  obtain ⟨-, hck, -, -, -, hwork⟩ := hs
  have h0 : parseByte 0x20 s = ibusWh0Hdr s := parseByte_ibus (c := .ibusWh0Hdr) ha hp (by rw [hst]; rfl)
  have h1 : parseByte 0x40 (ibusWh0Hdr s).1 = ibusH0Hdr1 (ibusWh0Hdr s).1 :=
    parseByte_ibus (c := .ibusH0Hdr1) ha hp rfl
  have hend : ibusH0Hdr1 (ibusWh0Hdr s).1 = (s.withIbusData d 0, false) := by
    simp only [ibusH0Hdr1, ibusWh0Hdr, State.withIbusData, ibusMessage_firstBytes_zero, hck, hwork]
    rfl
  exact .cons h0 (.last (h1.trans hend))

/-- R130: the channel bytes, one after the other. -/
theorem parseRun_ibusData (hst : s.st = .initial) (hs : s.ScratchReset) (n : Nat) (hn : n ≤ 28) :
    ParseRun ([0x20, 0x40] ++ d.toList.take n) s (s.withIbusData d n) false := by
  induction n with
  | zero => exact parseRun_ibusHeaders ha hp d hst hs
  | succ n ih =>
    rw [toList_take_succ d hn, ← List.append_assoc]
    exact (ih (Nat.le_of_succ_le hn)).append (.last (parseByte_withIbusData ha hp d hn))

end

/-! ### The verdict (R131, R132) -/

/-- The checksum of the header bytes and the channel bytes `d` (R62). -/
def ibusChecksum (d : Vector Byte 28) : Half := runningChecksum ([0x20, 0x40] ++ d.toList)

/-- The header bytes, the channel bytes `d` and any two checksum bytes. -/
def ibusCandidate (d : Vector Byte 28) (lo hi : Byte) : List Byte := [0x20, 0x40] ++ d.toList ++ [lo, hi]

/-- `s` when only the last byte of a candidate is missing. -/
def State.withIbusCklo (s : State) (d : Vector Byte 28) (lo : Byte) : State :=
  { s with st := .hasCheckSum0, cnt := 31, cksum := ibusChecksum d, ckLo := lo, work := ibusMessage d }

/-- A parser in its initial state with every scratch register reset is one that RESETPARSER leaves alone. -/
theorem resetParser_eq_self {s : State} (hst : s.st = .initial) (hs : s.ScratchReset) : s.resetParser = s := by
  cases s
  obtain ⟨rfl, rfl, rfl, rfl, rfl, rfl⟩ := hs
  subst hst
  rfl

section
variable {s : State} (ha : s.active = true) (hp : s.protoSel = .ibus) (hst : s.st = .initial) (hs : s.ScratchReset)
  (d : Vector Byte 28) (lo hi : Byte)
include ha hp hst hs

/-- R131: the checksum's low byte. -/
theorem parseRun_ibusCklo : ParseRun ([0x20, 0x40] ++ d.toList ++ [lo]) s (s.withIbusCklo d lo) false := by
  have htake : d.toList.take 28 = d.toList := List.take_of_length_le (by simp)
  have hdata := parseRun_ibusData ha hp d hst hs 28 le_rfl
  have hlo : parseByte lo (s.withIbusData d 28) = (s.withIbusCklo d lo, false) := by
    rw [parseByte_ibus (s := s.withIbusData d 28) (c := .ibusHfCklo) ha hp rfl]
    simp only [transition, ibusHfCklo, State.withIbusData, State.withIbusCklo, firstBytes_all, htake, ibusChecksum]
  rw [htake] at hdata
  exact hdata.append (.last hlo)

/-- The last byte of the candidate is judged with the checksum's low byte in CK_LO. -/
theorem parseRun_ibusCandidate {t : State} {ok : Bool} (h : ibusCs0Ckhi hi (s.withIbusCklo d lo) = (t, ok)) :
    ParseRun (ibusCandidate d lo hi) s t ok := by
  have hhi : parseByte hi (s.withIbusCklo d lo) = (t, ok) :=
    (parseByte_ibus (c := .ibusCs0Ckhi) (s := s.withIbusCklo d lo) ha hp rfl).trans h
  have hsplit : ibusCandidate d lo hi = [0x20, 0x40] ++ d.toList ++ [lo] ++ [hi] := by simp [ibusCandidate]
  rw [hsplit]
  exact (parseRun_ibusCklo ha hp hst hs d lo).append (.last hhi)

/-- R132: a candidate with the right checksum is put into the FIFO. -/
theorem parseRun_ibusCandidate_of_eq (hck : hi ++ lo = ibusChecksum d) :
    ParseRun (ibusCandidate d lo hi) s { s with fifo := s.fifo.put (ibusMessage d) } true := by
  have hend : (s.withIbusCklo d lo).parserNotify.resetParser =
      { s.resetParser with fifo := s.fifo.put (ibusMessage d) } := rfl
  rw [resetParser_eq_self hst hs] at hend
  exact parseRun_ibusCandidate ha hp hst hs d lo hi (by rw [ibusCs0Ckhi_of_eq hck, hend])

/-- R132: any other candidate is dropped. -/
theorem parseRun_ibusCandidate_of_ne (hck : hi ++ lo ≠ ibusChecksum d) :
    ParseRun (ibusCandidate d lo hi) s (s.raise .checksumMismatch) false := by
  have hend : (s.withIbusCklo d lo).resync .checksumMismatch = s.resetParser.raise .checksumMismatch := rfl
  rw [resetParser_eq_self hst hs] at hend
  exact parseRun_ibusCandidate ha hp hst hs d lo hi (by rw [ibusCs0Ckhi_of_ne hck, hend])

end

/-! ### Valid and mutated frames (R139) -/

/-- R62, R43: a valid frame is the candidate with the checksum's own two bytes. -/
theorem ibusFrame_eq_candidate (d : Vector Byte 28) :
    ibusFrame d = ibusCandidate d ((ibusChecksum d).extractLsb' 0 8) ((ibusChecksum d).extractLsb' 8 8) := rfl

/-- Settles O36: the checksum's two bytes make up the checksum. -/
theorem validIbusFrameDelivered : Obligations.ValidIbusFrameDelivered := by
  intro s d xs h ha hp hst hsrc hbytes hq
  subst hsrc
  obtain ⟨-, he, -, -, hibus, -⟩ := h
  obtain ⟨-, -, -, hinit, -⟩ := hibus ha hp
  have hrun := parseRun_ibusCandidate_of_eq (s := s.clearOut) ha hp hst (hinit hst) d _ _ (append_lanes _)
  rw [← ibusFrame_eq_candidate, ← hbytes] at hrun
  exact exec_update_of_parseRun ha he hq hrun

/-- A change of one channel byte changes the checksum. -/
theorem ibusChecksum_set_ne (d : Vector Byte 28) {i : Nat} (hi : i < 28) {v : Byte} (hv : d[i] ≠ v) :
    ibusChecksum (d.set i v) ≠ ibusChecksum d := by
  have hset : [0x20, 0x40] ++ (d.set i v).toList = ([0x20, 0x40] ++ d.toList).set (i + 2) v := by
    simp [Vector.toList_set]
  rw [ibusChecksum, hset]
  exact runningChecksum_set_ne (by simp; omega) (by simpa using hv)

/-- One changed byte after the header gives a candidate whose checksum bytes are wrong. -/
theorem exists_candidate_of_mutation (d : Vector Byte 28) {j : Nat} {v : Byte} (h2 : 2 ≤ j) (h31 : j ≤ 31)
    (hv : (ibusFrame d)[j]? ≠ some v) :
    ∃ d' lo hi, (ibusFrame d).set j v = ibusCandidate d' lo hi ∧ hi ++ lo ≠ ibusChecksum d' := by
  rw [ibusFrame_eq_candidate] at hv ⊢
  have hck := append_lanes (ibusChecksum d)
  generalize (ibusChecksum d).extractLsb' 0 8 = lo, (ibusChecksum d).extractLsb' 8 8 = hi at hv hck
  obtain ⟨i, rfl⟩ := Nat.exists_eq_add_of_le' h2
  obtain hi28 | rfl | rfl : i < 28 ∨ i = 28 ∨ i = 29 := by omega
  · have hvi : d[i] ≠ v := by simpa [ibusCandidate, List.getElem?_append, hi28] using hv
    exact ⟨d.set i v, lo, hi, by simp [ibusCandidate, Vector.toList_set, hi28],
      hck ▸ (ibusChecksum_set_ne d hi28 hvi).symm⟩
  · have hvlo : lo ≠ v := by simpa [ibusCandidate] using hv
    refine ⟨d, v, hi, by simp [ibusCandidate], fun h => hvlo ?_⟩
    rw [← append_low hi lo, hck, ← h, append_low]
  · have hvhi : hi ≠ v := by simpa [ibusCandidate] using hv
    refine ⟨d, lo, v, by simp [ibusCandidate], fun h => hvhi ?_⟩
    rw [← append_high hi lo, hck, ← h, append_high]

/-- Settles O37: the mutated frame is a candidate with the wrong checksum. -/
theorem mutatedIbusFrameDropped : Obligations.MutatedIbusFrameDropped := by
  intro s d j v xs h ha hp hst h2 h31 hv hsrc hbytes hq
  subst hsrc
  obtain ⟨-, he, -, -, hibus, -⟩ := h
  obtain ⟨-, -, -, hinit, -⟩ := hibus ha hp
  obtain ⟨d', lo, hi, hset, hck⟩ := exists_candidate_of_mutation d h2 h31 hv
  have hrun := parseRun_ibusCandidate_of_ne (s := s.clearOut) ha hp hst (hinit hst) d' lo hi hck
  rw [← hset, ← hbytes] at hrun
  exact exec_update_of_parseRun ha he hq hrun

end Sys2Proof.Machine
end

section
/-! PROOFS. The SBUS transitions (43_sbus.md R146 to R151), each in an active SBUS framer, and the messages they put
(R156). -/

namespace Sys2Proof.Machine

/-! ### The classes that collect a frame (R146 to R149) -/

/-- In an active SBUS framer a class that R68 selects runs its rule. -/
theorem execClass_sbus {c : TransClass} {b : Byte} {s : State} (ha : s.active = true) (hp : s.protoSel = .sbus)
    (hc : decodeSbus s.st b = c) : execClass c b s = answerOk (transition c b s.clearOut) :=
  execClass_selected c b s ha ((classOf_sbus s b hp).trans hc)

/-- D18: the byte after `cnt` accepted ones, the header among them, is payload byte `cnt - 1`. -/
theorem writeRaw_of_pos {c : BitVec 6} (hc : 1 ≤ c.toNat) (raw : Vector Byte 22) (b : Byte) :
    writeRaw raw c b = raw.setIfInBounds (c.toNat - 1) b := by
  have hidx : (c - 1).toNat = c.toNat - 1 := by bv_omega
  rw [writeRaw, hidx]

theorem succ_eq_twentyThree_iff (c : BitVec 6) : c + 1 = 23 ↔ c = 22 :=
  add_left_inj (1 : BitVec 6) (b := c) (c := 22)

/-- Settles O38: the tag and the byte select the class in each clause. -/
theorem sbusCollectingResult : Obligations.SbusCollectingResult := by
  intro s b ha hp
  refine ⟨fun hst => ?header, fun hst hb => ?skip, fun hst h1 _ => ?data, fun hst => ?flags⟩
  case header =>
    have hc : decodeSbus s.st Config.sbusHdr = .sbusWhHdr := by rw [hst]; rfl
    exact execClass_sbus ha hp hc
  case skip =>
    have hc : decodeSbus s.st b = .sbusWhSkip := by rw [hst]; exact if_neg hb
    exact execClass_sbus ha hp hc
  case data =>
    have hc : decodeSbus s.st b = .sbusAccData := by rw [hst]; rfl
    have hst' : (if s.cnt + 1 = 23 then Tag.readFlags else s.st) =
        if s.cnt = 22 then .readFlags else .accumulateChannels := by
      simp only [succ_eq_twentyThree_iff, hst]
    rw [← hst', ← writeRaw_of_pos h1]
    exact execClass_sbus ha hp hc
  case flags =>
    have hc : decodeSbus s.st b = .sbusRfFlags := by rw [hst]; rfl
    exact execClass_sbus ha hp hc

/-! ### The payload integer (R64, R153) -/

/-- The lowest `n` digits of `w` bits, put back at their places, are the lowest `w * n` bits. -/
theorem sum_digits_shiftLeft (p w n : Nat) :
    ((List.range n).map fun k => (p >>> (w * k) % 2 ^ w) <<< (w * k)).sum = p % 2 ^ (w * n) := by
  induction n with
  | zero => simp [Nat.mod_one]
  | succ n ih =>
    rw [List.sum_range_succ, ih, pow_mul 2 w (n + 1), Nat.mod_pow_succ, ← pow_mul, Nat.shiftRight_eq_div_pow,
      Nat.shiftLeft_eq, Nat.mul_comm (2 ^ (w * n))]

theorem payloadInt_lt (raw : Vector Byte 22) : payloadInt raw.toList < 2 ^ 176 := by
  refine Nat.lt_pow_two_of_testBit _ fun i hi => ?_
  have hout : raw.toList[i / 8]? = none := List.getElem?_eq_none (by simp; omega)
  simp [payloadInt_testBit, byteAt, hout]

/-- R64: the bytes are the payload's digits of 8 bits. -/
theorem byteAt_eq_digit (l : List Byte) (k : Nat) : byteAt l k = payloadInt l >>> (8 * k) % 2 ^ 8 := by
  refine Nat.eq_of_testBit_eq fun i => ?_
  rw [Nat.testBit_mod_two_pow, Nat.testBit_shiftRight, payloadInt_testBit]
  by_cases hi : i < 8
  · rw [show (8 * k + i) / 8 = k by omega, show (8 * k + i) % 8 = i by omega]
    simp [hi]
  · simp [hi, byteAt_testBit_of_le l k (Nat.le_of_not_lt hi)]

/-- R64: `P = sum over i of RAW[i] << (8*i)`. -/
theorem sum_bytes_eq_payloadInt (raw : Vector Byte 22) :
    ((List.range 22).map fun i => byteAt raw.toList i <<< (8 * i)).sum = payloadInt raw.toList := by
  simp only [byteAt_eq_digit, sum_digits_shiftLeft]
  exact Nat.mod_eq_of_lt (payloadInt_lt raw)

/-- R153: the lanes are the payload's digits of 11 bits. -/
theorem unpackLane_eq_digit (raw : Vector Byte 22) (k : Nat) :
    (unpackLane raw k).toNat = payloadInt raw.toList >>> (11 * k) % 2 ^ 11 :=
  (unpackLane_toNat raw k).trans (Nat.and_two_pow_sub_one_eq_mod _ 11)

theorem toList_unpack (raw : Vector Byte 22) : (unpack raw).toList = (List.range 16).map (unpackLane raw) := rfl

theorem getElem_unpack (raw : Vector Byte 22) (k : Fin 16) : (unpack raw)[k] = unpackLane raw k := by
  have h := Vector.getElem_toList (xs := unpack raw) (i := k.val) (by simp)
  simpa [toList_unpack] using h.symm

/-- Words put back at their places, by index. -/
theorem zipIdx_map_shiftLeft {n : Nat} (l : List (BitVec n)) (w : Nat) :
    (l.zipIdx.map fun p => p.1.toNat <<< (w * p.2)) =
      (List.range l.length).map fun i => (l[i]?.getD 0).toNat <<< (w * i) := by
  refine List.ext_getElem (by simp) fun i hi _ => ?_
  have hlen : i < l.length := by simpa using hi
  simp [hlen]

/-- R153: the lanes put back at their places are the payload integer. -/
theorem sum_lanes_eq_payloadInt (raw : Vector Byte 22) :
    ((List.range 16).map fun k => (unpackLane raw k).toNat <<< (11 * k)).sum = payloadInt raw.toList := by
  simp only [unpackLane_eq_digit, sum_digits_shiftLeft]
  exact Nat.mod_eq_of_lt (payloadInt_lt raw)

/-- Settles O42: the lanes and the bytes are the digits, of 11 and of 8 bits, of one integer below `2 ^ 176`. -/
theorem unpackLosesNoPayloadBit : Obligations.UnpackLosesNoPayloadBit := by
  intro raw
  rw [zipIdx_map_shiftLeft raw.toList, Vector.length_toList]
  exact (sum_lanes_eq_payloadInt raw).trans (sum_bytes_eq_payloadInt raw).symm

/-- Settles O43: both payloads are closed lists of bytes. -/
theorem unpackExtremes : Obligations.UnpackExtremes := by
  unfold Obligations.UnpackExtremes
  decide

/-! ### The footer's two classes (R150, R151) -/

/-- Settles O39: the message is UNPACK's channels and the mapped flags. -/
theorem sbusVfOkResult : Obligations.SbusVfOkResult := by
  intro s ha hp hst
  have hc : decodeSbus s.st Config.sbusFooter = .sbusVfOk := by rw [hst]; rfl
  refine ⟨⟨unpack s.raw, errorFlagsOf s.sflags⟩, execClass_sbus ha hp hc, fun k => ?channel, rfl⟩
  case channel =>
    have hsum : ((List.range 22).map fun i => (s.raw[i]?.getD 0).toNat <<< (8 * i)).sum = payloadInt s.raw.toList := by
      rw [← sum_bytes_eq_payloadInt]
      simp only [byteAt, Vector.getElem?_toList]
    rw [getElem_unpack, unpackLane_toNat, hsum]

/-- Settles O40: any byte but the footer selects the class. -/
theorem sbusVfBadResult : Obligations.SbusVfBadResult := by
  intro s b ha hp hst hb
  have hc : decodeSbus s.st b = .sbusVfBad := by rw [hst]; exact if_neg hb
  exact execClass_sbus ha hp hc

/-! ### The range of a message (R156) -/

theorem unpackLane_le (raw : Vector Byte 22) (k : Nat) : (unpackLane raw k).toNat ≤ 2047 :=
  (unpackLane_toNat raw k).trans_le Nat.and_le_right

/-- R152: only bits 0 and 1 can be set. -/
theorem errorFlagsOf_le (sflags : Byte) : (errorFlagsOf sflags).toNat ≤ 3 := by
  unfold errorFlagsOf
  cases sflags.getLsbD 3 <;> cases sflags.getLsbD 2 <;> decide

/-- R68: no SBUS tag selects an IBus class. -/
theorem decodeSbus_ne_ibusCs0Ckhi (st : Tag) (b : Byte) : decodeSbus st b ≠ .ibusCs0Ckhi := by
  cases st
  case code0 | code3 | code4 => simp only [decodeSbus]; split <;> nofun
  all_goals nofun

/-- Settles O44: an SBUS framer puts what SBUS.VF.OK unpacks, or nothing. -/
theorem sbusMessagesInRange : Obligations.SbusMessagesInRange := by
  intro s b ha hp
  refine ⟨_, exec_parsebyte_of_classOf ha rfl, fun hok => ?_⟩
  have hclass : s.parseCtx.classOf b = decodeSbus s.st b := classOf_sbus s b hp
  obtain ⟨hno, -⟩ | ⟨-, hc, -⟩ | ⟨-, -, hput⟩ := transition_fifo (s.parseCtx.classOf b) b s.clearOut
  · exact absurd (hno.symm.trans hok) Bool.false_ne_true
  · exact absurd (hclass.symm.trans hc) (decodeSbus_ne_ibusCs0Ckhi s.st b)
  · refine ⟨_, hput, errorFlagsOf_le s.sflags, fun k => ?_⟩
    rw [getElem_unpack]
    exact unpackLane_le s.raw k

end Sys2Proof.Machine
end

section
/-! PROOFS. An SBUS frame candidate, any 25 bytes that begin with the header byte, from the initial state: it is
accepted or dropped by its last byte (R63, R154, R155). -/

namespace Sys2Proof.Machine

/-! ### The candidate, byte by byte (R146, R148, R149) -/

/-- In an active SBUS framer PARSEBYTE performs the rule that R68 selects. -/
theorem parseByte_sbus {c : TransClass} {b : Byte} {s : State} (ha : s.active = true) (hp : s.protoSel = .sbus)
    (hc : decodeSbus s.st b = c) : parseByte b s = transition c b s := by
  rw [parseByte_active s b ha, classOf_sbus s b hp, hc]

/-- `s` with the header byte and `n` payload bytes accepted and `raw` in RAW. -/
def State.withSbusData (s : State) (raw : Vector Byte 22) (n : Nat) : State :=
  { s with
    st := if n = 22 then .readFlags else .accumulateChannels
    cnt := BitVec.ofNat 6 (n + 1)
    raw := raw }

/-- `s` when only the last byte of a candidate is missing. -/
def State.withSbusFlags (s : State) (payload : Vector Byte 22) (flags : Byte) : State :=
  { s with st := .validateFooter, cnt := 24, raw := payload, sflags := flags }

section
variable {s : State} (ha : s.active = true) (hp : s.protoSel = .sbus)
include ha hp

/-- R148: one payload byte. -/
theorem parseByte_withSbusData (raw : Vector Byte 22) (b : Byte) {n : Nat} (hn : n < 22) :
    parseByte b (s.withSbusData raw n) = (s.withSbusData (raw.setIfInBounds n b) (n + 1), false) := by
  have hst : (s.withSbusData raw n).st = .accumulateChannels := if_neg hn.ne
  have hc : decodeSbus (s.withSbusData raw n).st b = .sbusAccData := by rw [hst]; rfl
  have hnat : (BitVec.ofNat 6 (n + 1)).toNat = n + 1 := by simp; omega
  have hcnt : BitVec.ofNat 6 (n + 1) + 1 = BitVec.ofNat 6 (n + 2) := (BitVec.ofNat_add (n + 1) 1).symm
  have hlast : BitVec.ofNat 6 (n + 2) = 23 ↔ n + 1 = 22 := by
    rw [← BitVec.toNat_inj, ← hcnt, cnt_succ_toNat _ (by omega), hnat]
    exact Nat.add_right_cancel_iff (n := 1)
  have hraw : writeRaw raw (BitVec.ofNat 6 (n + 1)) b = raw.setIfInBounds n b := by
    rw [writeRaw_of_pos (by omega), hnat, Nat.add_sub_cancel]
  rw [parseByte_sbus (s := s.withSbusData raw n) ha hp hc]
  simp only [transition, sbusAccData, hst]
  simp only [State.withSbusData, hraw, hcnt, hlast]

variable (hst : s.st = .initial) (payload : Vector Byte 22) (flags : Byte)
include hst

/-- R146, R148: the header byte and the payload bytes, which RAW then holds in their order. -/
theorem parseRun_sbusData (n : Nat) (hn : n ≤ 22) :
    ∃ raw : Vector Byte 22, (∀ i (hi : i < n), raw[i] = payload[i]) ∧
      ParseRun ([0x0F] ++ payload.toList.take n) s (s.withSbusData raw n) false := by
  induction n with
  | zero =>
    have hc : decodeSbus s.st 0x0F = .sbusWhHdr := by rw [hst]; rfl
    exact ⟨s.raw, nofun, .last (parseByte_sbus ha hp hc)⟩
  | succ n ih =>
    obtain ⟨raw, hraw, hrun⟩ := ih (Nat.le_of_succ_le hn)
    have htake : payload.toList.take (n + 1) = payload.toList.take n ++ [payload[n]] := by
      rw [List.take_succ_eq_append_getElem (by simpa using hn), Vector.getElem_toList]
    refine ⟨raw.setIfInBounds n payload[n], fun i hi => ?_, ?_⟩
    · rw [Vector.getElem_setIfInBounds]
      split
      case isTrue h => simp only [h]
      case isFalse h => exact hraw i (by omega)
    · rw [htake, ← List.append_assoc]
      exact hrun.append (.last (parseByte_withSbusData ha hp raw payload[n] hn))

/-- R149: the flags byte. -/
theorem parseRun_sbusFlags :
    ParseRun ([0x0F] ++ payload.toList ++ [flags]) s (s.withSbusFlags payload flags) false := by
  obtain ⟨raw, hraw, hrun⟩ := parseRun_sbusData ha hp hst payload 22 le_rfl
  obtain rfl : raw = payload := Vector.ext hraw
  rw [List.take_of_length_le (by simp)] at hrun
  have hflags : parseByte flags (s.withSbusData raw 22) = (s.withSbusFlags raw flags, false) :=
    parseByte_sbus (s := s.withSbusData raw 22) (c := .sbusRfFlags) ha hp rfl
  exact hrun.append (.last hflags)

/-! ### The verdict (R150, R151) -/

/-- The last byte of the candidate is judged with the payload in RAW and the flags byte in SFLAGS. -/
theorem parseRun_sbusFrame {footer : Byte} {c : TransClass} {t : State} {ok : Bool}
    (hc : decodeSbus .validateFooter footer = c)
    (h : transition c footer (s.withSbusFlags payload flags) = (t, ok)) :
    ParseRun (sbusFrame payload flags footer) s t ok := by
  have hlast : parseByte footer (s.withSbusFlags payload flags) = (t, ok) :=
    (parseByte_sbus (s := s.withSbusFlags payload flags) ha hp hc).trans h
  have hsplit : sbusFrame payload flags footer = [0x0F] ++ payload.toList ++ [flags] ++ [footer] := by
    simp [sbusFrame]
  rw [hsplit]
  exact (parseRun_sbusFlags ha hp hst payload flags).append (.last hlast)

variable (hs : s.ScratchReset)
include hs

/-- R150: a candidate with the footer is put into the FIFO. -/
theorem parseRun_sbusFrame_footer :
    ParseRun (sbusFrame payload flags 0x00) s
      { s with fifo := s.fifo.put ⟨unpack payload, errorFlagsOf flags⟩ } true := by
  have hend : transition .sbusVfOk 0x00 (s.withSbusFlags payload flags) =
      ({ s.resetParser with fifo := s.fifo.put ⟨unpack payload, errorFlagsOf flags⟩ }, true) := rfl
  rw [resetParser_eq_self hst hs] at hend
  exact parseRun_sbusFrame ha hp hst payload flags rfl hend

/-- R151: any other candidate is dropped. -/
theorem parseRun_sbusFrame_of_ne {footer : Byte} (hne : footer ≠ 0x00) :
    ParseRun (sbusFrame payload flags footer) s (s.raise .badFooter) false := by
  have hend : transition .sbusVfBad footer (s.withSbusFlags payload flags) =
      (s.resetParser.raise .badFooter, false) := rfl
  rw [resetParser_eq_self hst hs] at hend
  exact parseRun_sbusFrame ha hp hst payload flags (if_neg hne) hend

end

/-- Settles O45: the frame's run through the parser, in the two cases of its last byte, is what UPDATE performs. -/
theorem sbusFrameDeliveredIffFooter : Obligations.SbusFrameDeliveredIffFooter := by
  intro s payload flags footer xs h ha hp hst hsrc hbytes hq
  subst hsrc
  obtain ⟨-, he, -, -, -, hsbus⟩ := h
  obtain ⟨-, -, -, hinit, -⟩ := hsbus ha hp
  have hs : s.clearOut.ScratchReset := hinit hst
  refine ⟨fun hfooter => ?delivered, fun hne => ?dropped⟩
  case delivered =>
    subst hfooter
    have hrun := parseRun_sbusFrame_footer (s := s.clearOut) ha hp hst payload flags hs
    rw [← hbytes] at hrun
    exact exec_update_of_parseRun ha he hq hrun
  case dropped =>
    have hrun := parseRun_sbusFrame_of_ne (s := s.clearOut) ha hp hst payload flags hs hne
    rw [← hbytes] at hrun
    exact exec_update_of_parseRun ha he hq hrun

end Sys2Proof.Machine
end

section
/-! PROOFS. The encoder's words decode to their instructions (30_encoding.md R67, R68, R72, R73, R74). -/

namespace Sys2Proof.Machine

/-! ### The operations (R72, R73) -/

@[simp] theorem Proto.ofCode_code (p : Proto) : Proto.ofCode p.code = p := by cases p <;> rfl

/-- The bit layout of format CC (R73) loses no field: peel the fields above each field off the word. -/
@[simp] theorem SerialConfig.ofBits_toBits (c : SerialConfig) : SerialConfig.ofBits c.toBits = c := by
  have hsrc : c.toBits.getLsbD 98 = c.srcPresent :=
    (BitVec.getLsbD_append (x := BitVec.ofBool c.srcPresent)).trans (by simp)
  have hproto : c.toBits.extractLsb' 96 2 = c.protocol.code := by
    refine (BitVec.extractLsb'_append_eq_of_add_le (by decide)).trans ?_
    exact BitVec.extractLsb'_append_eq_left
  have hbaud : c.toBits.extractLsb' 64 32 = c.baudrate := by
    iterate 2 refine (BitVec.extractLsb'_append_eq_of_add_le (by decide)).trans ?_
    exact BitVec.extractLsb'_append_eq_left
  have htmo : c.toBits.extractLsb' 32 32 = c.timeoutMs := by
    iterate 3 refine (BitVec.extractLsb'_append_eq_of_add_le (by decide)).trans ?_
    exact BitVec.extractLsb'_append_eq_left
  have hidle : c.toBits.extractLsb' 0 32 = c.idleThresholdUs := by
    iterate 3 refine (BitVec.extractLsb'_append_eq_of_add_le (by decide)).trans ?_
    exact BitVec.extractLsb'_append_eq_right
  rw [SerialConfig.ofBits, hsrc, hproto, hbaud, htmo, hidle, Proto.ofCode_code]

/-- A command word of a code and an operand decodes to the row's instruction, whose operand is read from the word. -/
theorem decode_command_operand {n : Nat} (x : ParseCtx) (c : BitVec 5) (v : BitVec n) (f : Format)
    (mk : BitVec n → Instr) (hf : f.width = 5 + n)
    (hrow : commandRow c.toNat (c ++ v : BitVec (5 + n)) = some (f, mk ((c ++ v : BitVec (5 + n)).extractLsb' 0 n))) :
    decode x (.command (5 + n) (c ++ v)) = .ok (mk v) := by
  rw [BitVec.extractLsb'_append_eq_right] at hrow
  exact decodeCommand_of_code c v f _ hrow hf

/-- R72: the command word of an operation decodes to it, whatever the registers. -/
theorem decode_encode_of_operation {i : Instr} (x : ParseCtx) (h : i.transClass = none) :
    decode x (encode i) = .ok i := by
  cases i
  case begin cfg =>
    have hw := decode_command_operand x 0x01#5 cfg.toBits .cc (fun v => .begin (SerialConfig.ofBits v)) rfl rfl
    rwa [SerialConfig.ofBits_toBits] at hw
  case rbPut m => exact decode_encode_rbPut x m
  case rxbyte b => exact decode_command_operand x 0x03#5 b .cb .rxbyte rfl rfl
  case parsebyte b => exact decode_command_operand x 0x10#5 b .cb .parsebyte rfl rfl
  case timeout t => exact decode_command_operand x 0x06#5 t .ct .timeout rfl rfl
  case update | available | getmessage | tslm | resetparser | listener | getmsgfifo | parsernotify | rbGet |
      rbIsempty | rbIsfull | rbCount | rbClear => rfl
  all_goals cases h

/-! ### The transition classes (R67, R68) -/

theorem classOf_of_dialect_ibus {x : ParseCtx} (b : Byte) (hd : x.protoSel.dialect = .ibus) :
    x.classOf b = decodeIbus x.tag b :=
  Option.some.inj ((classDecodeIsFirstTableMatch x b).symm.trans (find_classTable_ibus b hd))

/-- U11, log 11: under the SBUS dialect code 4 is read as code 0. -/
theorem tag_ne_code4 {x : ParseCtx} (hd : x.protoSel.dialect = .sbus) : x.tag ≠ .code4 := by
  unfold ParseCtx.tag
  split
  case isTrue => nofun
  case isFalse h => exact fun hst => h ⟨hd, hst⟩

theorem classOf_of_dialect_sbus {x : ParseCtx} (b : Byte) (hd : x.protoSel.dialect = .sbus) :
    x.classOf b = decodeSbus x.tag b :=
  Option.some.inj ((classDecodeIsFirstTableMatch x b).symm.trans (find_classTable_sbus b hd (tag_ne_code4 hd)))

/-- A class whose row matches the byte is selected, if it is no catch-all on a byte that an earlier row of its state
takes. -/
theorem classOf_eq_of_matches {c : TransClass} {x : ParseCtx} {b : Byte} (hm : c.row.matches x b = true)
    (hwf : (c.instr b).wellFormed = true) : x.classOf b = c := by
  obtain ⟨⟨hp, hst⟩, hb⟩ : (c.row.proto = x.protoSel.dialect ∧ c.row.st = x.tag) ∧ b &&& c.row.mask = c.row.val := by
    simpa [ClassRow.matches] using hm
  cases c
  case ibusWh0Hdr | ibusH0Hdr1 =>
    obtain rfl : b = _ := (BitVec.and_allOnes (x := b)).symm.trans hb
    rw [classOf_of_dialect_ibus _ hp.symm, ← hst]; rfl
  case sbusWhHdr | sbusVfOk =>
    obtain rfl : b = _ := (BitVec.and_allOnes (x := b)).symm.trans hb
    rw [classOf_of_dialect_sbus _ hp.symm, ← hst]; rfl
  case ibusWh0Skip | ibusH0Resync =>
    rw [classOf_of_dialect_ibus _ hp.symm, ← hst]
    exact if_neg (bne_iff_ne.mp hwf)
  case sbusWhSkip | sbusVfBad =>
    rw [classOf_of_dialect_sbus _ hp.symm, ← hst]
    exact if_neg (bne_iff_ne.mp hwf)
  case ibusH1Data | ibusHfCklo | ibusCs0Ckhi => rw [classOf_of_dialect_ibus _ hp.symm, ← hst]; rfl
  case sbusAccData | sbusRfFlags => rw [classOf_of_dialect_sbus _ hp.symm, ← hst]; rfl

/-- A class instruction is encoded by a byte that meets its class's mask and match. -/
theorem exists_byte_of_transClass {i : Instr} {c : TransClass} (h : i.transClass = some c) :
    ∃ b, i = c.instr b ∧ encode i = .parserByte b ∧ b &&& c.row.mask = c.row.val := by
  cases i
  case ibusWh0Hdr | ibusH0Hdr1 | sbusWhHdr | sbusVfOk => cases h; exact ⟨_, rfl, rfl, rfl⟩
  case ibusWh0Skip | ibusH0Resync | ibusH1Data | ibusHfCklo | ibusCs0Ckhi | sbusWhSkip | sbusAccData | sbusRfFlags |
      sbusVfBad => cases h; exact ⟨_, rfl, rfl, BitVec.and_zero⟩
  all_goals cases h

/-- R67, R68: the byte of a class instruction decodes to it where an active parser admits it. -/
theorem decode_encode_of_class {i : Instr} {c : TransClass} {x : ParseCtx} (hc : i.transClass = some c)
    (hwf : i.wellFormed = true) (hadm : i.admittedIn x = true) : decode x (encode i) = .ok i := by
  obtain ⟨b, rfl, henc, hb⟩ := exists_byte_of_transClass hc
  obtain ⟨⟨ha, hp⟩, hst⟩ : (x.active = true ∧ c.row.proto = x.protoSel.dialect) ∧ c.row.st = x.tag := by
    simpa [Instr.admittedIn, hc] using hadm
  have hm : c.row.matches x b = true := by simp [ClassRow.matches, hp, hst, hb]
  rw [henc, decode, if_pos ha, classOf_eq_of_matches hm hwf]

/-- Settles O1: an operation has a command word, a transition class a byte handed to the parser. -/
theorem decodeEncodeRoundTrip : Obligations.DecodeEncodeRoundTrip := by
  refine ⟨fun i x hwf hadm => ?_, fun _ _ => rfl⟩
  cases hc : i.transClass with
  | none => exact decode_encode_of_operation x hc
  | some c => exact decode_encode_of_class hc hwf hadm

end Sys2Proof.Machine
end

section
/-! PROOFS. Progress and preservation of a step (44_serialrx.md R180, 60_exceptions.md R200): a decoded word and a legal
word without an instruction are answered with a next state, and no instruction changes N or the requests to come. -/

namespace Sys2Proof.Machine

/-! ### Progress: what a legal word is answered with -/

/-- Each operation of R72 answers a next state in every state. -/
theorem exec_operation_next {i : Instr} (s : State) (h : i.transClass = none) : ∃ t, exec i s = .next t := by
  cases i
  case begin cfg =>
    show ∃ t, execBegin cfg s = .next t
    unfold execBegin
    split
    · exact ⟨_, rfl⟩
    · split <;> exact ⟨_, rfl⟩
  case update =>
    show ∃ t, execUpdate s = .next t
    unfold execUpdate
    split <;> exact ⟨_, rfl⟩
  case getmessage =>
    show ∃ t, execGetmessage s = .next t
    unfold execGetmessage
    split <;> exact ⟨_, rfl⟩
  case rxbyte | available | timeout | tslm | parsebyte | resetparser | listener | getmsgfifo | parsernotify | rbPut |
      rbGet | rbIsempty | rbIsfull | rbCount | rbClear => exact ⟨_, rfl⟩
  all_goals cases h

/-- A command word never decodes to a transition class. -/
theorem transClass_of_commandRow {op width : Nat} {bits : BitVec width} {f : Format} {i : Instr}
    (h : commandRow op bits = some (f, i)) : i.transClass = none := by
  unfold commandRow at h
  split at h <;> cases h <;> rfl

theorem transClass_of_decodeCommand {width : Nat} {bits : BitVec width} {i : Instr}
    (h : decodeCommand width bits = .ok i) : i.transClass = none := by
  unfold decodeCommand at h
  split at h
  · cases h
  · dsimp only at h
    split at h
    · cases h
    · rename_i hrow
      split at h <;> cases h
      exact transClass_of_commandRow hrow

/-- An instruction that the decoder gives in the registers of `s` answers a next state there: a byte handed to the
parser decodes to the class it selects, whose condition holds. -/
theorem exec_decoded_next {s : State} {w : PortWord} {i : Instr} (h : decode s.parseCtx w = .ok i) :
    ∃ t, exec i s = .next t := by
  cases w with
  | command width bits => exact exec_operation_next s (transClass_of_decodeCommand h)
  | strobe b => cases h; exact exec_operation_next s rfl
  | parserByte b =>
    rw [decode] at h
    split at h <;> cases h
    rename_i ha
    exact ⟨_, (exec_classOf_instr ha).trans (exec_parsebyte b s)⟩

/-- The two ways the decoder gives no instruction for a legal word (R75, R118). -/
theorem decode_error_of_legalWord {x : ParseCtx} {w : PortWord} {why : Reject} (hw : legalWord w = true)
    (h : decode x w = .error why) : (∃ op, why = .reservedCode op) ∨ (∃ b, why = .noParser b) := by
  cases w with
  | command width bits =>
    obtain ⟨h5, hrow⟩ := Bool.and_eq_true_iff.mp hw
    rw [decode, decodeCommand, if_neg (Nat.not_lt.mpr (of_decide_eq_true h5))] at h
    dsimp only at h
    split at h
    · cases h; exact .inl ⟨_, rfl⟩
    · rename_i f i hcode
      rw [hcode] at hrow
      rw [if_pos (beq_iff_eq.mp hrow)] at h
      cases h
  | strobe b => cases h
  | parserByte b =>
    rw [decode] at h
    split at h <;> cases h
    exact .inr ⟨_, rfl⟩

/-- R75, R118: a legal word without an instruction clears the outputs. -/
theorem answerReject_of_legalWord {x : ParseCtx} {w : PortWord} {why : Reject} (hw : legalWord w = true)
    (h : decode x w = .error why) (s : State) : answerReject why s = .next s.clearOut := by
  obtain ⟨op, rfl⟩ | ⟨b, rfl⟩ := decode_error_of_legalWord hw h <;> rfl

/-! ### Preservation: N and the requests to come -/

/-- The capacity N and the requests to come, which no instruction writes. -/
def State.depthAndInputs (s : State) : Nat × List Clock := (s.fifo.depth, s.inputs)

theorem transition_depthAndInputs (c : TransClass) (b : Byte) (s : State) :
    (transition c b s).1.depthAndInputs = s.depthAndInputs := by
  have hin : (transition c b s).1.inputs = s.inputs := by rw [transition_frame]
  have hd : (transition c b s).1.fifo.depth = s.fifo.depth := by
    obtain e | ⟨m, e⟩ := transition_fifo_eq_or_put c b s <;> rw [e]
    exact s.fifo.put_depth m
  exact Prod.ext hd hin

theorem feed_depthAndInputs (b : Byte) (s : State) : (feed b s).1.depthAndInputs = s.depthAndInputs := by
  rw [feed_eq]
  cases ha : s.active
  · rw [parseByte_inactive s b ha]; rfl
  · rw [parseByte_active s b ha]; exact transition_depthAndInputs _ b s

theorem received_depthAndInputs (s : State) : s.received.depthAndInputs = s.depthAndInputs := by
  unfold State.received State.idleCheck
  split <;> rfl

theorem rxByte_depthAndInputs (b : Byte) (s : State) : (rxByte b s).1.depthAndInputs = s.depthAndInputs := by
  obtain e | e | e := rxByte_cases b s <;> rw [e]
  · exact received_depthAndInputs s
  · exact (feed_depthAndInputs b s.received).trans (received_depthAndInputs s)

theorem drain_depthAndInputs (xs : List SrcByte) (s : State) : (drain xs s).depthAndInputs = s.depthAndInputs := by
  induction xs generalizing s with
  | nil => rfl
  | cons x xs ih => exact (ih _).trans (rxByte_depthAndInputs x.byte (s.atTime x.nowUs x.nowMs))

theorem Effect.depthAndInputs_eq {i : Instr} {s t : State} (e : Effect i s t) :
    t.depthAndInputs = s.depthAndInputs := by
  cases e with
  | outputs | clear | resetParser | begin => rfl
  | get => exact congrArg (·, s.inputs) s.fifo.get_depth
  | put m => exact congrArg (·, s.inputs) (s.fifo.put_depth m)
  | transition b => exact transition_depthAndInputs _ b s.clearOut
  | rxbyte b => exact rxByte_depthAndInputs b s.clearOut
  | update => exact drain_depthAndInputs s.src { s.clearOut with src := [] }

/-- Of legal words, the one fetched is legal and so are those left on the ports. -/
theorem fetch_legal {s : State} (h : s.InputsLegal) :
    (∀ r, s.fetch.1 = some r → legalWord r.word = true) ∧ s.fetch.2.InputsLegal := by
  unfold State.InputsLegal at h ⊢
  rcases hin : s.inputs with _ | ⟨⟨arr, caller, byteSide⟩, rest⟩
  · rw [State.fetch, hin]
    exact ⟨nofun, by rw [hin]; rfl⟩
  rw [hin, List.all_cons, Bool.and_eq_true, Clock.Legal, Bool.and_eq_true] at h
  obtain ⟨⟨hcaller, hbyteSide⟩, hrest⟩ := h
  rw [State.fetch, hin]
  rcases caller with _ | r
  · exact ⟨fun p hp => (Option.all_eq_true _ _).mp hbyteSide p hp, hrest⟩
  · have hr : ∀ r', some r = some r' → legalWord r'.word = true := (Option.all_eq_true _ _).mp hcaller
    rcases byteSide with _ | p
    · exact ⟨hr, hrest⟩
    · exact ⟨hr, Bool.and_eq_true_iff.mpr ⟨hbyteSide, hrest⟩⟩

/-- N >= 1 and legal words to come, all that progress needs, are read off `State.depthAndInputs`. -/
theorem legal_of_depthAndInputs_eq {s t : State} (h : t.depthAndInputs = s.depthAndInputs) (hd : 0 < s.fifo.depth)
    (hin : s.InputsLegal) : 0 < t.fifo.depth ∧ t.InputsLegal := by
  obtain ⟨hdepth, hinputs⟩ := Prod.ext_iff.mp h
  exact ⟨hd.trans_eq hdepth.symm, (congrArg (fun l => l.all Clock.Legal) hinputs).trans hin⟩

/-- Settles O9: the fetched word is legal, so it decodes to an instruction that answers or clears the outputs, and
either way N and the words left on the ports stay. -/
theorem stepAlwaysAnswersNext : Obligations.StepAlwaysAnswersNext := by
  intro s hd hin
  obtain ⟨hword, hleft⟩ := fetch_legal hin
  have hdepth : 0 < s.fetch.2.fifo.depth := by rw [fetch_frame]; exact hd
  obtain ⟨hw, hstep⟩ | ⟨hw, -, hstep⟩ | ⟨r, hw, hr, hrun⟩ := step_cases s hd <;>
    simp only [hw, reduceCtorEq, false_implies, true_implies, true_and, and_true]
  · exact hstep
  · exact ⟨_, hstep, hdepth, hleft⟩
  obtain ⟨i, hi, hstep⟩ | ⟨why, hwhy, hstep⟩ := hrun
  · obtain ⟨t, ht⟩ := exec_decoded_next (s := s.fetch.2.atTime r.nowUs r.nowMs) hi
    exact ⟨t, hstep.trans ht, legal_of_depthAndInputs_eq (exec_effect ht).depthAndInputs_eq hdepth hleft⟩
  · exact ⟨_, hstep.trans (answerReject_of_legalWord (hword r hr) hwhy _), hdepth, hleft⟩

end Sys2Proof.Machine
end

section
/-! PROOFS. The public interface (44_serialrx.md): BEGIN, RXBYTE, UPDATE, AVAILABLE, TIMEOUT and TSLM. -/

namespace Sys2Proof.Machine

/-! ### BEGIN (R171) -/

/-- Settles O48: a selector other than IBUS and SBUS is the unsupported one. -/
theorem beginResult : Obligations.BeginResult := by
  intro cfg s
  have hrun : exec (.begin cfg) s = execBegin cfg s := rfl
  refine ⟨fun hsrc => ?absent, fun hsrc hibus hsbus => ?unsupported, fun hsrc hp => ?opened⟩ <;>
    rw [hrun, execBegin, hsrc]
  case absent => rfl
  case unsupported =>
    have hno : cfg.protocol.supported = false :=
      Bool.eq_false_iff.mpr fun h => (supported_iff_ibus_or_sbus.mp h).elim hibus hsbus
    rw [hno]; rfl
  case opened => rw [supported_iff_ibus_or_sbus.mpr hp]; rfl

/-! ### AVAILABLE, TIMEOUT, TSLM (R174, R176, R177, R214) -/

/-- R174 while ACTIVE = 0. -/
theorem exec_available_of_inactive {s : State} (ha : s.active = false) :
    exec .available s = .next { s with out := Outputs.zero } := by
  have hno : (s.active && !s.fifo.isEmpty) = false := by rw [ha, Bool.false_and]
  exact congrArg (fun ok => answerOk (s.clearOut, ok)) hno

/-- R174: `return do LISTENER`. -/
theorem exec_available_of_active {s : State} (ha : s.active = true) : exec .available s = exec .listener s := by
  have hok : (s.active && !s.fifo.isEmpty) = !s.fifo.isEmpty := by rw [ha, Bool.true_and]
  exact congrArg (fun ok => answerOk (s.clearOut, ok)) hok

/-- Settles O53: LISTENER's result is O26's. -/
theorem availableResult : Obligations.AvailableResult := fun s =>
  ⟨exec_available_of_inactive, fun ha => (exec_available_of_active ha).trans (listenerResult s)⟩

theorem exec_timeout (threshold : Word) (s : State) : exec (.timeout threshold) s = .next { s with
    out := { Outputs.zero with ok := decide (s.nowMs - s.lastMsgMs > threshold) } } := rfl

theorem exec_tslm (s : State) :
    exec .tslm s = .next { s with out := { Outputs.zero with val := s.nowMs - s.lastMsgMs } } := rfl

/-- R214: elapsed time modulo 2^32, over the integers. -/
theorem toNat_elapsed (now before : Word) :
    (now - before).toNat = (now.toNat + 2 ^ 32 - before.toNat) % 2 ^ 32 := by
  rw [BitVec.toNat_sub, ← Nat.sub_add_comm before.isLt.le, Nat.add_comm]

/-- Settles O54: the comparison of words is that of the integers. -/
theorem timeoutResult : Obligations.TimeoutResult := by
  intro s threshold
  rw [exec_timeout, ← toNat_elapsed]
  rfl

/-- Settles O55: TIMEOUT compares the value that TSLM answers. -/
theorem tslmResult : Obligations.TslmResult := fun s =>
  ⟨_, exec_tslm s, toNat_elapsed _ _, fun threshold => exec_timeout threshold s⟩

/-! ### RXBYTE (R172, R181) -/

theorem exec_rxbyte (b : Byte) (s : State) : exec (.rxbyte b) s = answerOk (rxByte b s.clearOut) := rfl

/-- R172 line 2: no gap above an enabled threshold. -/
theorem idleGap_eq_false {s : State} (h : s.idleUs = 0 ∨ s.nowUs - s.lastByteUs ≤ s.idleUs) : s.idleGap = false := by
  obtain hoff | hle := h
  · simp [State.idleGap, hoff]
  · simp [State.idleGap, exceeds, elapsed32, hle]

theorem idleGap_eq_true {s : State} (he : s.expectStart = false) (hon : s.idleUs ≠ 0)
    (hgap : s.nowUs - s.lastByteUs > s.idleUs) : s.idleGap = true := by
  simpa [State.idleGap, exceeds, elapsed32, he, hgap] using hon

theorem parseByte_nowMs (b : Byte) (s : State) : (parseByte b s).1.nowMs = s.nowMs := by rw [parseByte_frame]

theorem parseByte_lastMsgMs (b : Byte) (s : State) : (parseByte b s).1.lastMsgMs = s.lastMsgMs := by
  rw [parseByte_frame]

/-- R172 lines 5 to 7 with the frame of PARSEBYTE: the stamp is the step's sample or the register's old value. -/
theorem feed_eq_stamped (b : Byte) (s : State) :
    feed b s = ({ (parseByte b s).1 with lastMsgMs := if (parseByte b s).2 then s.nowMs else s.lastMsgMs },
      (parseByte b s).2) := by
  rw [feed_eq, parseByte_nowMs, parseByte_lastMsgMs]

/-- Settles O49: with no idle trigger RXBYTE is `feed` of the stamped state. -/
theorem rxbyteFeedsParser : Obligations.RxbyteFeedsParser := by
  intro s b he
  refine ⟨fun ha => ?inactive, fun ha hquiet => ⟨_, exec_parsebyte b _, ?active⟩⟩
  case inactive =>
    have hrx : rxByte b s.clearOut = (s.clearOut, false) := if_neg (Bool.eq_false_iff.mp ha)
    rw [exec_rxbyte, hrx]; rfl
  case active =>
    have hgap : s.clearOut.idleGap = false := idleGap_eq_false hquiet
    rw [exec_rxbyte, rxByte_quiet b s.clearOut ha he hgap, feed_eq_stamped]
    rfl

/-! ### RXBYTE after an idle gap (R172, R178, R179, R182) -/

/-- `s` with the parser reset and the byte stamped after an idle gap (R172 lines 2 and 3). -/
def State.afterGap (s : State) : State :=
  { s.resetParser with lastByteUs := s.nowUs, out := { Outputs.zero with events := [.idleGap] } }

theorem resync_stampByte_eq_afterGap {s : State} (he : s.expectStart = false) :
    { (s.clearOut.resync .idleGap).stampByte with expectStart := false } = s.afterGap := by
  cases s
  cases he
  rfl

section
variable {s : State} {b : Byte} (ha : s.active = true)
include ha

section
variable (he : s.expectStart = false) (hon : s.idleUs ≠ 0) (hgap : s.nowUs - s.lastByteUs > s.idleUs)
include he hon hgap

/-- R172 line 4: the header byte goes to the parser in its reset state. -/
theorem exec_rxbyte_gap_header (hb : b = hdr0 s.protoSel) : exec (.rxbyte b) s = answerOk (feed b s.afterGap) := by
  have hg : s.clearOut.idleGap = true := idleGap_eq_true he hon hgap
  rw [exec_rxbyte, rxByte_gap_header b s.clearOut ha hg hb, resync_stampByte_eq_afterGap he]

/-- R172 line 4: any other byte is discarded. -/
theorem exec_rxbyte_gap_discard (hb : b ≠ hdr0 s.protoSel) :
    exec (.rxbyte b) s = .next (s.afterGap.raise .idleDiscard) := by
  have hg : s.clearOut.idleGap = true := idleGap_eq_true he hon hgap
  rw [exec_rxbyte, rxByte_gap_discard b s.clearOut ha hg hb, ← resync_stampByte_eq_afterGap he]
  rfl

end

variable (hp : s.protoSel = .ibus ∨ s.protoSel = .sbus) (hst : s.st = .initial)
include hp hst

/-- R126, R146: in the initial state the header byte starts a frame and completes none. -/
theorem parseByte_header (hb : b = hdr0 s.protoSel) :
    parseByte b s =
      ({ s with st := .code1, cnt := 1, cksum := if s.protoSel = .ibus then s.cksum - 0x20 else s.cksum }, false) := by
  obtain hp | hp := hp <;> rw [hp] at hb <;> subst hb
  · rw [if_pos hp]
    exact parseByte_ibus (c := .ibusWh0Hdr) ha hp (by rw [hst]; rfl)
  · rw [if_neg (by rw [hp]; nofun)]
    exact parseByte_sbus (c := .sbusWhHdr) ha hp (by rw [hst]; rfl)

/-- R127, R147: in the initial state any other byte is skipped. -/
theorem parseByte_skip (hb : b ≠ hdr0 s.protoSel) : parseByte b s = (s.raise .skippedByte, false) := by
  obtain hp | hp := hp <;> rw [hp] at hb
  · exact parseByte_ibus (c := .ibusWh0Skip) ha hp (by rw [hst]; exact if_neg hb)
  · exact parseByte_sbus (c := .sbusWhSkip) ha hp (by rw [hst]; exact if_neg hb)

end

/-- Settles O50: after the gap the parser is in its initial state, where only the header byte starts a frame. -/
theorem idleGapDropsOrStartsFrame : Obligations.IdleGapDropsOrStartsFrame := by
  intro s b ha he hon hgap hp
  refine ⟨exec_rxbyte_gap_discard ha he hon hgap, fun hb => ?starts⟩
  have hcksum : (0xFFFF : Half) - 0x20 = 0xFFDF := rfl
  rw [exec_rxbyte_gap_header ha he hon hgap hb, feed_eq_stamped, parseByte_header (s := s.afterGap) ha hp rfl hb,
    ← hcksum]
  rfl

/-- Settles O51: from the initial state PARSEBYTE skips the byte that the filter discards, and on the header byte it
answers false, so that `feed` stamps no message. -/
theorem headerFilterIsRedundant : Obligations.HeaderFilterIsRedundant := by
  intro s b hinv ha hon hgap
  obtain ⟨-, he, -, hsel, -⟩ := hinv
  have hreset : exec .resetparser { s with lastByteUs := s.nowUs } = .next s.afterGap.clearOut := rfl
  have hparse := exec_parsebyte b s.afterGap.clearOut
  by_cases hb : b = hdr0 s.protoSel
  · have hrx := exec_rxbyte_gap_header ha he hon hgap hb
    rw [feed_eq_stamped, parseByte_header (s := s.afterGap) ha (hsel ha) rfl hb] at hrx
    rw [parseByte_header (s := s.afterGap.clearOut.clearOut) ha (hsel ha) rfl hb] at hparse
    exact ⟨_, _, _, hreset, hparse, hrx, rfl, rfl⟩
  · have hrx := exec_rxbyte_gap_discard ha he hon hgap hb
    rw [parseByte_skip (s := s.afterGap.clearOut.clearOut) ha (hsel ha) rfl hb] at hparse
    exact ⟨_, _, _, hreset, hparse, hrx, rfl, rfl⟩

/-! ### The time since the last message (R183) -/

/-- Settles O56: an accepting RXBYTE stamps LAST_MSG_MS with its own sample. -/
theorem timeoutAfterMessage : Obligations.TimeoutAfterMessage := by
  intro s t b ms hrx hok
  rw [exec_rxbyte] at hrx
  cases hrx
  have hstamp : (rxByte b s.clearOut).1.lastMsgMs = s.nowMs :=
    (rxByte_lastMsgMs b s.clearOut).trans (if_pos hok)
  refine ⟨_, exec_timeout 1000 _, ?_⟩
  dsimp only
  rw [hstamp, decide_eq_true_iff]
  exact BitVec.lt_def

/-! ### UPDATE (R173, R181) -/

/-- `s` with the events `ev` recorded before its own. -/
def State.withEarlier (s : State) (ev : List Event) : State :=
  { s with out := { s.out with events := ev ++ s.out.events } }

section
variable (ev : List Event)

@[simp] theorem withEarlier_active (s : State) : (s.withEarlier ev).active = s.active := rfl
@[simp] theorem withEarlier_protoSel (s : State) : (s.withEarlier ev).protoSel = s.protoSel := rfl
@[simp] theorem withEarlier_expectStart (s : State) : (s.withEarlier ev).expectStart = s.expectStart := rfl

theorem raise_withEarlier (s : State) (e : Event) : (s.withEarlier ev).raise e = (s.raise e).withEarlier ev := by
  simp [State.raise, State.withEarlier]

theorem resync_withEarlier (s : State) (e : Event) : (s.withEarlier ev).resync e = (s.resync e).withEarlier ev :=
  congrArg State.resetParser (raise_withEarlier ev s e)

/-- No rule reads the events recorded so far (R201). -/
theorem transition_withEarlier (c : TransClass) (b : Byte) (s : State) :
    transition c b (s.withEarlier ev) = ((transition c b s).1.withEarlier ev, (transition c b s).2) := by
  cases c
  case ibusWh0Skip | sbusWhSkip => exact congrArg (·, false) (raise_withEarlier ev s _)
  case ibusH0Resync | sbusVfBad => exact congrArg (·, false) (resync_withEarlier ev s _)
  case ibusCs0Ckhi =>
    by_cases hck : b ++ s.ckLo = s.cksum
    · simp only [transition, ibusCs0Ckhi_of_eq (s := s) hck, ibusCs0Ckhi_of_eq (s := s.withEarlier ev) hck]
      rfl
    · simp only [transition, ibusCs0Ckhi_of_ne (s := s) hck, ibusCs0Ckhi_of_ne (s := s.withEarlier ev) hck,
        resync_withEarlier]
  all_goals rfl

theorem parseByte_withEarlier (b : Byte) (s : State) :
    parseByte b (s.withEarlier ev) = ((parseByte b s).1.withEarlier ev, (parseByte b s).2) := by
  cases ha : s.active
  · rw [parseByte_inactive s b ha, parseByte_inactive (s.withEarlier ev) b ha]
  · rw [parseByte_active s b ha, parseByte_active (s.withEarlier ev) b ha]
    exact transition_withEarlier ev (s.parseCtx.classOf b) b s

theorem feed_withEarlier (b : Byte) (s : State) :
    feed b (s.withEarlier ev) = ((feed b s).1.withEarlier ev, (feed b s).2) := by
  rw [feed_eq, feed_eq, parseByte_withEarlier]
  rfl

theorem idleCheck_withEarlier (s : State) : (s.withEarlier ev).idleCheck = s.idleCheck.withEarlier ev := by
  have hg : (s.withEarlier ev).idleGap = s.idleGap := rfl
  unfold State.idleCheck
  rw [hg, resync_withEarlier]
  split <;> rfl

theorem received_withEarlier (s : State) : (s.withEarlier ev).received = s.received.withEarlier ev :=
  congrArg (fun t => { t.stampByte with expectStart := false }) (idleCheck_withEarlier ev s)

theorem rxByte_withEarlier (b : Byte) (s : State) :
    rxByte b (s.withEarlier ev) = ((rxByte b s).1.withEarlier ev, (rxByte b s).2) := by
  simp only [rxByte_eq, received_withEarlier, idleCheck_withEarlier, feed_withEarlier, raise_withEarlier,
    withEarlier_active, withEarlier_protoSel, withEarlier_expectStart]
  split
  · split <;> rfl
  · rfl

end

/-- The outputs but the events. -/
def State.results (s : State) : Outputs := { s.out with events := [] }

theorem feed_results (b : Byte) (s : State) : (feed b s).1.results = s.results := by
  rw [feed_eq, parseByte_frame]
  rfl

theorem received_results (s : State) : s.received.results = s.results := by
  unfold State.received State.idleCheck
  split <;> rfl

theorem rxByte_results (b : Byte) (s : State) : (rxByte b s).1.results = s.results := by
  obtain e | e | e := rxByte_cases b s <;> rw [e]
  · exact received_results s
  · exact (feed_results b s.received).trans (received_results s)

theorem clearOut_withEarlier (s : State) (ev : List Event) :
    s.clearOut.withEarlier ev = { s with out := { Outputs.zero with events := ev } } := by
  simp [State.withEarlier, State.clearOut, Outputs.zero]

/-- RXBYTE inside UPDATE, with the events `ev` recorded so far, against RXBYTE as an instruction: the same registers,
its events after `ev`, no result. -/
theorem rxByte_eq_after (b : Byte) (s : State) (ev : List Event) :
    (rxByte b (s.clearOut.withEarlier ev)).1 =
      (after (.rxbyte b) s).clearOut.withEarlier (ev ++ (after (.rxbyte b) s).out.events) := by
  have hout : (rxByte b s.clearOut).1.out = { Outputs.zero with events := (rxByte b s.clearOut).1.out.events } :=
    congrArg (fun o => { o with events := (rxByte b s.clearOut).1.out.events }) (rxByte_results b s.clearOut)
  rw [rxByte_withEarlier, clearOut_withEarlier, State.withEarlier, hout]
  rfl

/-- R173: the loop of UPDATE, the events `ev` recorded before it. -/
theorem drain_eq_afterRx (xs : List SrcByte) (s : State) (ev : List Event) :
    drain xs (s.clearOut.withEarlier ev) = (afterRx xs s).clearOut.withEarlier (ev ++ rxEvents xs s) := by
  induction xs generalizing s ev with
  | nil => exact congrArg s.clearOut.withEarlier (List.append_nil ev).symm
  | cons x xs ih =>
    have hx := rxByte_eq_after x.byte (s.atTime x.nowUs x.nowMs) ev
    calc drain (x :: xs) (s.clearOut.withEarlier ev)
        = drain xs (rxByte x.byte ((s.atTime x.nowUs x.nowMs).clearOut.withEarlier ev)).1 := rfl
      _ = _ := by rw [hx, ih, List.append_assoc]; rfl

/-- Settles O52: the loop from cleared outputs, its bytes taken from the byte source. -/
theorem updateIsRxbytePerByte : Obligations.UpdateIsRxbytePerByte := by
  intro s
  have hloop := (drain_eq_afterRx s.src { s with src := [] } []).trans (clearOut_withEarlier _ _)
  exact ⟨fun ha => if_neg (Bool.eq_false_iff.mp ha), fun ha => (if_pos ha).trans (congrArg answerNone hloop)⟩

end Sys2Proof.Machine
end

section
/-! PROOFS. The inactive condition (60_exceptions.md R210, 70_reset_and_hazards.md R231; decision D11): what an
instruction does to ACTIVE. -/

namespace Sys2Proof.Machine

/-- ACTIVE is one of the registers of the configuration. -/
theorem active_eq_of_configuration_eq {s t : State} (h : t.configuration = s.configuration) : t.active = s.active :=
  congrArg Prod.fst h

/-- R210: a successful BEGIN sets ACTIVE, and every other effect leaves it alone. -/
theorem Effect.keeps_active {i : Instr} {s t : State} (e : Effect i s t) (ha : s.active = true) : t.active = true := by
  cases e with
  | outputs | get | put | clear | resetParser => exact ha
  | transition b => exact (active_eq_of_configuration_eq (transition_configuration _ b s.clearOut)).trans ha
  | begin => rfl
  | rxbyte b => exact (active_eq_of_configuration_eq (rxByte_configuration b s.clearOut)).trans ha
  | update => exact (active_eq_of_configuration_eq (drain_configuration s.src { s.clearOut with src := [] })).trans ha

/-- R20: an active framer of the invariant has one of the two protocols selected. -/
theorem State.Inv.protocol_of_active {s : State} (h : s.Inv) (ha : s.active = true) :
    s.protoSel = .ibus ∨ s.protoSel = .sbus := by
  obtain ⟨-, -, -, hproto, -, -⟩ := h
  exact hproto ha

/-- Settles O58: no effect of an instruction clears ACTIVE, and the invariant, which every effect keeps, ties ACTIVE to
the two protocols. -/
theorem noOperationDeactivates : Obligations.NoOperationDeactivates := by
  intro i s t hinv hs
  have e : Effect i s t := exec_effect hs
  have ht : t.Inv := e.inv hinv
  exact ⟨e.keeps_active, ht.protocol_of_active⟩

end Sys2Proof.Machine
end

section
/-! PROOFS. Power-on reset establishes the invariant of the registers (70_reset_and_hazards.md R230; 10_state.md R23,
R29), which every step then keeps. -/

namespace Sys2Proof.Machine

/-- R33, R111: power-on reset leaves the parser's registers where RESETPARSER puts them. -/
theorem resetParser_powerOn (n : Nat) : (State.powerOn n).resetParser = State.powerOn n := rfl

/-- R230: the FIFO is empty, the framer is inactive with no protocol, and its parser stands as after RESETPARSER. -/
theorem powerOn_inv {n : Nat} (hn : 0 < n) : (State.powerOn n).Inv := by
  have hfifo : (State.powerOn n).fifo.Wf := Fifo.empty_wf n hn
  have hinv : (State.powerOn n).resetParser.Inv := resetParser_inv _ hfifo rfl (fun _ => rfl) nofun
  rwa [resetParser_powerOn] at hinv

/-- Settles O11: the machine's reset state is the power-on state of the default depth (R7), which is at least 1. -/
theorem powerOnMeetsInvariant : Obligations.PowerOnMeetsInvariant := by
  have hdepth : 0 < Config.fifoDepth := by decide
  exact ⟨fun _ hn => powerOn_inv hn, powerOn_inv hdepth⟩

end Sys2Proof.Machine
end

section
/-! PROOFS. What the decoder gives (30_encoding.md R67, R68, R72, R73, R74): a decoded word is its instruction's word, and
the instruction is well-formed and admitted; a transition class is refused where the decoder does not give it. -/

namespace Sys2Proof.Machine

/-! ### The field layouts lose no bit (R70, R73, R74) -/

@[simp] theorem Proto.code_ofCode (c : BitVec 2) : (Proto.ofCode c).code = c := by revert c; decide

theorem ofBool_getLsbD {n : Nat} (w : BitVec n) (k : Nat) : BitVec.ofBool (w.getLsbD k) = w.extractLsb' k 1 := by
  have h := BitVec.setWidth_one (x := w.extractLsb' k 1)
  rw [BitVec.setWidth_eq, BitVec.getLsbD_extractLsb'] at h
  simpa using h.symm

/-- The bits above bit `k` go back on the `k` lowest ones. -/
theorem extractLsb'_append_low {n j k : Nat} {w : BitVec n} {a : BitVec k} (h : a = w.extractLsb' 0 k) :
    w.extractLsb' k j ++ a = w.extractLsb' 0 (j + k) := by
  rw [h]
  exact BitVec.extractLsb'_append_extractLsb'_eq_extractLsb' (Nat.zero_add k).symm

/-- R73, format CC: the fields of a word, put together again from the lowest up, are the word. -/
@[simp] theorem SerialConfig.toBits_ofBits (w : BitVec 99) : (SerialConfig.ofBits w).toBits = w := by
  simp only [SerialConfig.toBits, SerialConfig.ofBits, Proto.code_ofCode, ofBool_getLsbD]
  refine Eq.trans ?_ BitVec.extractLsb'_eq_self
  iterate 4 refine extractLsb'_append_low ?_
  rfl

/-- R74: the channels and flags of a word, put together again from the lowest up, are the word. -/
@[simp] theorem RCMessage.toBits_ofBits (w : BitVec 264) : (RCMessage.ofBits w).toBits = w := by
  refine Eq.trans ?_ BitVec.extractLsb'_eq_self
  iterate 16 refine extractLsb'_append_low ?_
  rfl

/-! ### A decoded word is its instruction's word (R72, R73) -/

/-- R73: a word decodes to an operation only by the row of its top five bits, in the width of the row's format. -/
theorem decodeCommand_ok {width : Nat} {bits : BitVec width} {i : Instr} (h : decodeCommand width bits = .ok i) :
    5 ≤ width ∧ ∃ f, commandRow (bits.extractLsb' (width - 5) 5).toNat bits = some (f, i) ∧ width = f.width := by
  unfold decodeCommand at h
  split at h
  case isTrue => cases h
  case isFalse h5 =>
    refine ⟨Nat.not_lt.mp h5, ?_⟩
    dsimp only at h
    split at h
    · cases h
    · rename_i f j hrow
      split at h <;> cases h
      rename_i hf
      exact ⟨f, hrow, hf⟩

/-- A command word is its code before its operand (R73). -/
theorem code_append_operand {n : Nat} (bits : BitVec (5 + n)) :
    bits.extractLsb' (5 + n - 5) 5 ++ bits.extractLsb' 0 n = bits := by
  rw [Nat.add_sub_cancel_left]
  exact BitVec.extractLsb'_append_extractLsb'

/-- R72: an operation's word is the code of its row before the operand that the row reads. -/
theorem encode_of_commandRow {n : Nat} {c : BitVec 5} {v : BitVec n} {f : Format} {i : Instr}
    (h : commandRow c.toNat (c ++ v : BitVec (5 + n)) = some (f, i)) (hf : f.width = 5 + n) :
    encode i = .command (5 + n) (c ++ v) := by
  have hn : n = f.width - 5 := by omega
  unfold commandRow at h
  cases f <;> simp only [Format.width, Nat.reduceSub] at hn <;> subst hn
  case c0 =>
    obtain rfl := BitVec.eq_nil v
    split at h <;> cases h
    all_goals
      rename_i hc
      obtain ⟨-, rfl⟩ := BitVec.toNat_eq_nat.mp hc
      rfl
  case cb | ct | cc | cm =>
    rw [BitVec.extractLsb'_append_eq_right] at h
    split at h <;> cases h
    all_goals
      rename_i hc
      obtain ⟨-, rfl⟩ := BitVec.toNat_eq_nat.mp hc
      simp only [encode, SerialConfig.toBits_ofBits, RCMessage.toBits_ofBits]

/-- R72, R73: a command word that decodes is the word of its instruction. -/
theorem encode_of_decodeCommand {width : Nat} {bits : BitVec width} {i : Instr}
    (h : decodeCommand width bits = .ok i) : encode i = .command width bits := by
  obtain ⟨hwidth, f, hrow, hf⟩ := decodeCommand_ok h
  obtain ⟨n, rfl⟩ := Nat.exists_eq_add_of_le hwidth
  have hcode := code_append_operand bits
  generalize bits.extractLsb' (5 + n - 5) 5 = c at hrow hcode
  rw [← hcode] at hrow ⊢
  exact encode_of_commandRow hrow hf.symm

/-- An operation of R72 is an instruction whatever its operand and the registers. -/
theorem wellFormed_of_operation {i : Instr} (h : i.transClass = none) : i.wellFormed = true := by
  cases i
  case ibusWh0Skip | ibusH0Resync | sbusWhSkip | sbusVfBad => cases h
  all_goals rfl

theorem admittedIn_of_operation {i : Instr} (x : ParseCtx) (h : i.transClass = none) : i.admittedIn x = true := by
  rw [Instr.admittedIn, h]

/-! ### A byte's class is its instruction (R67, R68) -/

theorem transClass_instr (c : TransClass) (b : Byte) : (c.instr b).transClass = some c := by cases c <;> rfl

/-- R67, R68: the word of a class instruction is the byte that the class's row matched. -/
theorem encode_instr_of_matches {c : TransClass} {x : ParseCtx} {b : Byte} (h : c.row.matches x b = true) :
    encode (c.instr b) = .parserByte b := by
  cases c
  case ibusWh0Hdr | ibusH0Hdr1 | sbusWhHdr | sbusVfOk =>
    rw [TransClass.row, ClassRow.matches_byte, decide_eq_true_eq] at h
    obtain ⟨-, rfl⟩ := h
    rfl
  all_goals rfl

/-- R67, R68: in a state with two rows the catch-all is selected only on a byte that the first row does not match. -/
theorem wellFormed_ite_instr {c c' : TransClass} {b v : Byte} (hfirst : (c.instr b).wellFormed = true)
    (hother : b ≠ v → (c'.instr b).wellFormed = true) :
    ((if b = v then c else c').instr b).wellFormed = true := by
  split
  case isTrue => exact hfirst
  case isFalse hne => exact hother hne

theorem wellFormed_decodeIbus_instr (st : Tag) (b : Byte) : ((decodeIbus st b).instr b).wellFormed = true := by
  cases st
  case code0 | code1 => exact wellFormed_ite_instr rfl bne_iff_ne.mpr
  case code2 | code3 | code4 => rfl

theorem wellFormed_decodeSbus_instr (st : Tag) (b : Byte) : ((decodeSbus st b).instr b).wellFormed = true := by
  cases st
  case code0 | code3 | code4 => exact wellFormed_ite_instr rfl bne_iff_ne.mpr
  case code1 | code2 => rfl

theorem wellFormed_classOf_instr (x : ParseCtx) (b : Byte) : ((x.classOf b).instr b).wellFormed = true := by
  unfold ParseCtx.classOf
  split
  · exact wellFormed_decodeIbus_instr x.st b
  · exact wellFormed_decodeSbus_instr x.st b

/-- A class is selected only where an active parser admits it. -/
theorem admittedIn_of_classOf {c : TransClass} {x : ParseCtx} {b : Byte} (ha : x.active = true)
    (hc : x.classOf b = c) (b' : Byte) : (c.instr b').admittedIn x = true := by
  have hm : c.row.matches x b = true := hc ▸ row_classOf_matches x b
  rw [ClassRow.matches, Bool.and_eq_true] at hm
  rw [Instr.admittedIn, transClass_instr]
  simpa [ha] using hm.1

/-- Settles O2: a command word is its code before its operand, a strobe is RXBYTE's second word, and a byte handed to
the parser meets the row of the class it selects. -/
theorem decodedWordIsItsEncoding : Obligations.DecodedWordIsItsEncoding := by
  intro x w i h
  cases w with
  | command width bits =>
    have hop : i.transClass = none := transClass_of_decodeCommand h
    exact ⟨.inl (encode_of_decodeCommand h), wellFormed_of_operation hop, admittedIn_of_operation x hop⟩
  | strobe b =>
    cases h
    exact ⟨.inr ⟨b, rfl, rfl⟩, rfl, rfl⟩
  | parserByte b =>
    rw [decode] at h
    split at h <;> cases h
    rename_i ha
    exact ⟨.inl (encode_instr_of_matches (row_classOf_matches x b)), wellFormed_classOf_instr x b,
      admittedIn_of_classOf ha rfl b⟩

/-- Settles O4: each command word is the word of its operation, which decodes whatever the registers. -/
theorem sampleWordsDecode : Obligations.SampleWordsDecode :=
  ⟨decode_encode_of_operation (i := .available) _ rfl,
   decode_encode_of_operation (i := .rbClear) _ rfl,
   decode_encode_of_operation (i := .rxbyte 0xFF) _ rfl,
   decode_encode_of_operation (i := .parsebyte 0x0F) _ rfl,
   decode_encode_of_operation (i := .timeout 1000) _ rfl,
   decode_encode_of_operation (i := .begin ⟨true, .ibus, 115200, 1000, 300⟩) _ rfl,
   decode_encode_of_operation (i := .begin ⟨true, .rsvd, 115200, 1000, 0⟩) _ rfl,
   rfl,
   decode_encode_of_class (i := .ibusH0Hdr1) rfl rfl rfl,
   decode_encode_of_class (i := .sbusVfBad 0x04) rfl rfl rfl⟩

/-! ### A class outside its condition (log 9) -/

/-- A class instruction runs its class on some byte; the four classes that carry no byte have it in their row. -/
theorem exists_exec_instr (c : TransClass) (b : Byte) (s : State) : ∃ b', exec (c.instr b) s = execClass c b' s := by
  cases c <;> exact ⟨_, rfl⟩

/-- Settles O47: were the class selected by any byte, the registers would admit it. -/
theorem classRefusedOutsideItsCondition : Obligations.ClassRefusedOutsideItsCondition := by
  intro c b s _ hadm
  obtain ⟨b', hexec⟩ := exists_exec_instr c b s
  have hsel : ¬ ((s.active && s.parseCtx.classOf b' == c) = true) := by
    rw [Bool.and_eq_true, beq_iff_eq]
    exact fun ⟨ha, hc⟩ => hadm (admittedIn_of_classOf (x := s.parseCtx) ha hc b)
  rw [hexec, execClass, if_neg hsel]

end Sys2Proof.Machine
end

section
/-! PROOFS. Words and instances without meaning (30_encoding.md R75, 41_parser_interface.md R118, 00_scope.md R8, U17): a
reserved code and a byte handed to no parser decode to nothing, on every arrangement of the ports. -/

namespace Sys2Proof.Machine

/-! ### What decodes to nothing (R72, R75, R118; log 8, log 15) -/

/-- R72: the fourteen codes without a row. -/
theorem commandRow_reserved {op width : Nat} (bits : BitVec width)
    (h : op ∈ [0x00, 0x08, 0x09, 0x0A, 0x0B, 0x0C, 0x0D, 0x0E, 0x0F, 0x15, 0x16, 0x17, 0x1E, 0x1F]) :
    commandRow op bits = none := by
  fin_cases h <;> rfl

/-- R75: a word with a reserved code decodes to nothing. -/
theorem decode_reserved {width : Nat} {bits : BitVec width} (x : ParseCtx) (h5 : 5 ≤ width)
    (h : (bits.extractLsb' (width - 5) 5).toNat ∈
      [0x00, 0x08, 0x09, 0x0A, 0x0B, 0x0C, 0x0D, 0x0E, 0x0F, 0x15, 0x16, 0x17, 0x1E, 0x1F]) :
    decode x (.command width bits) = .error (.reservedCode (bits.extractLsb' (width - 5) 5)) := by
  rw [decode, decodeCommand, if_neg (Nat.not_lt.mpr h5)]
  dsimp only
  rw [commandRow_reserved bits h]

/-- R118: a byte handed to no parser decodes to nothing. -/
theorem decode_parserByte_of_inactive {x : ParseCtx} (b : Byte) (ha : x.active = false) :
    decode x (.parserByte b) = .error (.noParser b) := by
  rw [decode, ha]; rfl

/-! ### A step with a rejected word, and with two writers (log 25) -/

/-- A step whose clock has not two writers answers the rejected word it fetches. -/
theorem step_of_fetch_error {s t : State} {r : Request} {why : Reject} (hd : 0 < s.fifo.depth)
    (hw : s.twoFifoWriters = false) (hf : s.fetch = (some r, t)) (hwhy : decode t.parseCtx r.word = .error why) :
    step s = answerReject why (t.atTime r.nowUs r.nowMs) := by
  simp [step, Nat.ne_of_gt hd, hw, hf, hwhy]

/-- The three arrangements of the ports in which `r` is the next word: alone on either port, or the caller's with a word
of the byte side behind it. `rest` is what it leaves to come (R55; log 3, log 16). -/
def State.NextIs (s : State) (r : Request) (arr : List SrcByte) (rest : List Clock) : Prop :=
  s.inputs = ⟨arr, some r, none⟩ :: rest ∨ s.inputs = ⟨arr, none, some r⟩ :: rest ∨
    ∃ p later, s.inputs = ⟨arr, some r, some p⟩ :: later ∧ rest = ⟨[], none, some p⟩ :: later

section
variable {s : State} {r : Request} {arr : List SrcByte} {rest : List Clock} {why : Reject}

theorem State.NextIs.fetch_eq (h : s.NextIs r arr rest) :
    s.fetch = (some r, { s with src := s.src ++ arr, inputs := rest }) := by
  obtain h | h | ⟨p, later, h, rfl⟩ := h <;> rw [State.fetch, h]

/-- A word that decodes to nothing is no writer of the FIFO (U17). -/
theorem State.NextIs.not_twoFifoWriters (h : s.NextIs r arr rest) (hwhy : decode s.parseCtx r.word = .error why) :
    s.twoFifoWriters = false := by
  obtain h | h | ⟨p, later, h, -⟩ := h
  · exact twoFifoWriters_caller s arr r rest h
  · exact twoFifoWriters_byteSide s arr _ rest h
  · have hr : r.writesFifo { s with src := s.src ++ arr } = false := by
      unfold Request.writesFifo
      have hwhy : decode (State.parseCtx { s with src := s.src ++ arr }) r.word = .error why := hwhy
      rw [hwhy]
    rw [twoFifoWriters_both s arr r p later h, hr, Bool.false_and]

/-- A rejected word is answered in the registers as they stand, with its time samples and the clock's arrivals. -/
theorem State.NextIs.step_of_decode_error (h : s.NextIs r arr rest) (hd : 0 < s.fifo.depth)
    (hwhy : decode s.parseCtx r.word = .error why) : step s = answerReject why { s with
      src := s.src ++ arr, inputs := rest, nowUs := r.nowUs, nowMs := r.nowMs } :=
  (step_of_fetch_error hd (h.not_twoFifoWriters hwhy) h.fetch_eq hwhy :)

end

/-- Two RB.PUT at one clock are two writers (U17). -/
theorem twoFifoWriters_rbPut {s : State} {arr : List SrcByte} {m m' : RCMessage} {us ms us' ms' : Word}
    {rest : List Clock}
    (h : s.inputs = ⟨arr, some ⟨encode (.rbPut m), us, ms⟩, some ⟨encode (.rbPut m'), us', ms'⟩⟩ :: rest) :
    s.twoFifoWriters = true := by
  have hput (u : State) (m : RCMessage) (us ms : Word) :
      Request.writesFifo ⟨encode (.rbPut m), us, ms⟩ u = true := by
    rw [Request.writesFifo, decode_encode_rbPut]; rfl
  rw [twoFifoWriters_both s _ _ _ _ h, hput, hput, Bool.and_self]

/-- Settles O7: neither kind of word decodes to an instruction, and both rejections only clear the outputs. -/
theorem wordsAndInstancesWithoutMeaning : Obligations.WordsAndInstancesWithoutMeaning := by
  refine ⟨fun s r arr rest hd hnext hword => ?words, fun s hd => if_pos hd,
    fun s m m' us ms us' ms' arr rest hd h => ?puts⟩
  case words =>
    have hnext : s.NextIs r arr rest := hnext
    obtain ⟨width, bits, hr, h5, hop⟩ | ⟨ha, b, hr⟩ := hword
    · have hwhy := decode_reserved s.parseCtx h5 hop
      rw [← hr] at hwhy
      exact hnext.step_of_decode_error hd hwhy
    · have hwhy := decode_parserByte_of_inactive (x := s.parseCtx) b ha
      rw [← hr] at hwhy
      exact hnext.step_of_decode_error hd hwhy
  case puts => rw [step, if_neg (Nat.ne_of_gt hd), if_pos (twoFifoWriters_rbPut h)]

end Sys2Proof.Machine
end
